-- ==== Sys2Proof/Word.lean ====
section
/-! DEFINITION. The widths of 00_scope.md R9, under the names the rules use. -/

namespace Sys2Proof

/-- One byte: a duration in µs (R9), a payload byte, a checksum (R92). -/
abbrev Byte := BitVec 8

/-- A command word, a raw field, the accumulator, a value on `rd_data` (R9). -/
abbrev Word := BitVec 16

/-- An address on `rd_addr` (R9). -/
abbrev ReadAddr := BitVec 3

/-- The observation counter (R9, R17). -/
abbrev Count := BitVec 7

end Sys2Proof
end

