-- ==== Sys2Proof/Config.lean ====
section
/-! DEFINITION. What one elaboration of the validator fixes: the sensor models, the fixed constants of R7, the two
thresholds of R8, and the parameters the spec leaves open. -/

namespace Sys2Proof

/-- The two sensor models (R3): ModelA is the 11-type, ModelB the 22/AM2302/RHT03-type. -/
inductive SensorModel where
  | modelA
  | modelB
  deriving DecidableEq, Repr

/-- The elaboration-time thresholds of R8, each as wide as its half of PARAMS (R101). -/
structure Params where
  timeoutUs : Byte
  bitThresholdUs : Byte
  deriving DecidableEq, Repr

namespace Config

/-- N_OBS (R7). -/
def nObs : Nat := 83

/-- FIRST_INDEX (R7). -/
def firstIndex : Int := -3

/-- LAST_INDEX (R7). -/
def lastIndex : Int := 79

/-- N_HANDSHAKE (R7). -/
def nHandshake : Nat := 3

/-- HUM_SNAP_INDEX (R7). -/
def humSnapIndex : Int := 31

/-- TEMP_SNAP_INDEX (R7). -/
def tempSnapIndex : Int := 63

/-- N_DATA_BITS (R7). -/
def nDataBits : Nat := 40

/-- The defaults of R8: the source's 90 µs and 30 µs. -/
def defaultParams : Params := ⟨90, 30⟩

/-- R8: `TIMEOUT_US` is in 1..255, `BIT_THRESHOLD_US` in 0..254, and the second lies below the first. -/
def Legal (p : Params) : Prop :=
  1 ≤ p.timeoutUs.toNat ∧ p.bitThresholdUs.toNat ≤ 254 ∧ p.bitThresholdUs.toNat < p.timeoutUs.toNat

/-- R8, R10 (D10): elaboration with two numbers; a pair outside the ranges is refused. -/
def elaborate (timeout bitThreshold : Nat) : Option Params :=
  if 1 ≤ timeout ∧ timeout ≤ 255 ∧ bitThreshold ≤ 254 ∧ bitThreshold < timeout then
    some ⟨BitVec.ofNat 8 timeout, BitVec.ofNat 8 bitThreshold⟩
  else none

/-- DURATION_QUANTISATION (R132, I5), left open by the spec: the whole microseconds a sampler reports for a real
elapsed time in µs. No rule of the validator reads it; only the sampler's report does (entry 12). -/
opaque durationQuantisation : Rat → Nat

/-- VALIDATOR_BASE (R45, I7), left open by the spec: where a host map places the register space. No rule reads it
(entry 13). -/
opaque validatorBase : Nat

/-- FLOAT_CONV (R105, I6), left open by the spec: the float a consumer makes of a number of tenths, as the bits of its
own format. The flag asks for the negative zero. No rule of the validator reads it (entry 13). -/
opaque floatConv (tenths : Int) (negativeZero : Bool) : Nat

end Config
end Sys2Proof
end

