-- ==== Sys2Proof/Syntax.lean ====
section
/-! DEFINITION. The instructions: one constructor per row of spec/opcode_table.json. -/

namespace Sys2Proof

/-- The three commands of R52 and the eight register reads of R61. Every operand type has exactly the values the
encoding has: `m` is one bit (R54), `t` one bit and `d` eight (R55). -/
inductive Instr where
  | nop
  | start (m : SensorModel)
  | sample (t : Bool) (d : Byte)
  | rdStatus
  | rdRawHum
  | rdRawTemp
  | rdAcc
  | rdSum
  | rdHumDeci
  | rdTempDeci
  | rdParams
  deriving DecidableEq, Repr

end Sys2Proof
end

