-- ==== Sys2Proof/Assembly.lean ====
section
/-! DEFINITION. The lines of the assembler of R62 and R63, as a programmer may write them: numbers are plain
naturals here, so that a line can be out of range. -/

namespace Sys2Proof

/-- One line of assembly: the syntax of R62 and the pseudo-instructions of R63. -/
inductive AsmLine where
  | nop
  | start (m : SensorModel)
  | sample (d : Nat)
  | sampleT (d : Nat)
  | word (w : Nat)
  | rd (a : Nat)
  | hs
  | bit0
  | bit1
  | byte (v : Nat)
  | frame (h t c : Nat)
  | frameOk (h t : Nat)
  | timeout
  deriving DecidableEq, Repr

end Sys2Proof
end

