-- ==== Sys2Proof/WellFormed.lean ====
section
/-! DEFINITION. Which instructions, assembly lines and parameters are well-formed. -/

namespace Sys2Proof

/-- Every term of `Instr` is well-formed: its operand types hold exactly the values of the encoding (R54, R55), so
an operand out of range cannot be written. The ranges are checked where numbers are plain: in a line of assembly
and in a pair of parameters, below. -/
def Instr.wellFormed : Instr → Bool
  | .nop => true
  | .start _ => true
  | .sample _ _ => true
  | .rdStatus => true
  | .rdRawHum => true
  | .rdRawTemp => true
  | .rdAcc => true
  | .rdSum => true
  | .rdHumDeci => true
  | .rdTempDeci => true
  | .rdParams => true

/-- The ranges of R62 and R63: D and V in 0..255, W in 0..0xFFFF, a read address in 0..7 (R61). H and T are 16-bit
and C is 8-bit, by their expansion (entry 11). -/
def AsmLine.wellFormed : AsmLine → Bool
  | .nop => true
  | .start _ => true
  | .sample d => decide (d ≤ 255)
  | .sampleT d => decide (d ≤ 255)
  | .word w => decide (w ≤ 0xFFFF)
  | .rd a => decide (a ≤ 7)
  | .hs => true
  | .bit0 => true
  | .bit1 => true
  | .byte v => decide (v ≤ 255)
  | .frame h t c => decide (h ≤ 0xFFFF) && decide (t ≤ 0xFFFF) && decide (c ≤ 255)
  | .frameOk h t => decide (h ≤ 0xFFFF) && decide (t ≤ 0xFFFF)
  | .timeout => true

/-- R8 as a check that runs. -/
def Params.wellFormed (p : Params) : Bool :=
  decide (1 ≤ p.timeoutUs.toNat) && decide (p.bitThresholdUs.toNat ≤ 254) &&
    decide (p.bitThresholdUs.toNat < p.timeoutUs.toNat)

end Sys2Proof
end

