-- ==== Sys2Proof/Decode.lean ====
section
/-! DEFINITION. Decoding what stands on the ports (R52, R57, R61, R64), and the encoder written from the same
encodings. No byte order applies: a command is one whole 16-bit word (R39, R44, R60). -/

namespace Sys2Proof

/-- What the host can put on a port: a word on `cmd` (R51) or an address on `rd_addr` (R61). -/
inductive PortWord where
  | command (w : Word)
  | readAddr (a : ReadAddr)
  deriving DecidableEq, Repr

/-- The four kinds of illegal word, in the order of R57. -/
inductive IllegalWord where
  /-- OP is 0x3..0xF -/
  | illegalOp
  /-- OP is 0x0 and a bit of w[11:0] is set -/
  | reservedNop
  /-- OP is 0x1 and a bit of w[11:1] is set -/
  | reservedStart
  /-- OP is 0x2 and a bit of w[11:9] is set -/
  | reservedSample
  deriving DecidableEq, Repr

/-- The field OP = w[15:12] (R51). -/
def opField (w : Word) : BitVec 4 := w.extractLsb' 12 4

/-- The field D = w[7:0] (R55). -/
def durationField (w : Word) : Byte := w.extractLsb' 0 8

/-- The field T = w[8] (R55). -/
def timeoutField (w : Word) : Bool := w.getLsbD 8

/-- The field M = w[0] (R54): 0 is ModelA, 1 is ModelB (R16). -/
def modelField (w : Word) : SensorModel := if w.getLsbD 0 then .modelB else .modelA

/-- Which kind of illegal word `w` is, for a word that matches no pattern of R52 (R57). -/
def illegalKind (w : Word) : IllegalWord :=
  if opField w = 0x0#4 then .reservedNop
  else if opField w = 0x1#4 then .reservedStart
  else if opField w = 0x2#4 then .reservedSample
  else .illegalOp

/-- A command word decodes by the full masks of R52 (R58, R64). -/
def decodeCommand (w : Word) : Except IllegalWord Instr :=
  if w = 0x0000#16 then .ok .nop
  else if w &&& 0xFFFE#16 = 0x1000#16 then .ok (.start (modelField w))
  else if w &&& 0xFE00#16 = 0x2000#16 then .ok (.sample (timeoutField w) (durationField w))
  else .error (illegalKind w)

/-- The read of each address (R37, R61): every address is defined. -/
def decodeReadAddr (a : ReadAddr) : Instr :=
  if a = 0#3 then .rdStatus
  else if a = 1#3 then .rdRawHum
  else if a = 2#3 then .rdRawTemp
  else if a = 3#3 then .rdAcc
  else if a = 4#3 then .rdSum
  else if a = 5#3 then .rdHumDeci
  else if a = 6#3 then .rdTempDeci
  else .rdParams

/-- Decoding what stands on either port; an illegal word is rejected by the name of its kind. -/
def decode : PortWord → Except IllegalWord Instr
  | .command w => decodeCommand w
  | .readAddr a => .ok (decodeReadAddr a)

/-- M as a number (R54). -/
def modelBit : SensorModel → Word
  | .modelA => 0
  | .modelB => 1

/-- The word, or the address, of an instruction (R53, R54, R55, R61). -/
def encode : Instr → PortWord
  | .nop => .command 0x0000#16
  | .start m => .command (0x1000#16 ||| modelBit m)
  | .sample t d => .command (0x2000#16 ||| (BitVec.setWidth 16 (BitVec.ofBool t) <<< 8) ||| BitVec.setWidth 16 d)
  | .rdStatus => .readAddr 0#3
  | .rdRawHum => .readAddr 1#3
  | .rdRawTemp => .readAddr 2#3
  | .rdAcc => .readAddr 3#3
  | .rdSum => .readAddr 4#3
  | .rdHumDeci => .readAddr 5#3
  | .rdTempDeci => .readAddr 6#3
  | .rdParams => .readAddr 7#3

/-- What a row of the opcode table with `nbits` bits puts on a port: a row of one byte or less is a read address
(format RDADDR, 3 bits), a longer one a command word (format CMD16). A number too large for its port is on none
(entry 8). -/
def tablePortWord (nbits w : Nat) : Option PortWord :=
  if nbits ≤ 8 then
    if w < 8 then some (.readAddr (BitVec.ofNat 3 w)) else none
  else
    if w < 0x10000 then some (.command (BitVec.ofNat 16 w)) else none

/-- The instruction the decoder reads from an opcode-table word of `nbits` bits. -/
def decodeTableWord (nbits w : Nat) : Option Instr :=
  match tablePortWord nbits w with
  | some pw =>
    match decode pw with
    | .ok i => some i
    | .error _ => none
  | none => none

end Sys2Proof
end

