-- ==== Sys2Proof/Machine/State.lean ====
section
/-! DEFINITION. The state: the validator's own eight elements (R13), the parameters of its elaboration, and the host
as plain data. -/

namespace Sys2Proof.Machine

/-- `st`, the sequencer state (R14). The value 3 is never held, so there are three constructors (entry 5). -/
inductive SeqState where
  | idle
  | busy
  | done
  deriving DecidableEq, Repr

/-- `res`, the result (R15, R107). -/
inductive Result where
  | ok
  | timeout
  | checksum
  | none
  deriving DecidableEq, Repr

/-- The validator's complete architectural state, exactly the tuple of R13. -/
structure Regs where
  /-- sequencer state (R14) -/
  st : SeqState
  /-- result of the last attempt (R15) -/
  res : Result
  /-- model of the current or last attempt (R16) -/
  model : SensorModel
  /-- observations accepted in this attempt (R17) -/
  cnt : Count
  /-- bit accumulator (R18) -/
  acc : Word
  /-- rawHumidity snapshot (R19) -/
  rh : Word
  /-- rawTemperature snapshot (R20) -/
  rt : Word
  /-- sticky refused-command flag (R21) -/
  err : Bool
  deriving DecidableEq, Repr

/-- The reset table (R31). -/
def Regs.reset : Regs where
  st := .idle
  res := .none
  model := .modelA
  cnt := 0
  acc := 0x0000
  rh := 0x0000
  rt := 0x0000
  err := false

/-- A move of the host (R129, entry 1). `edge` is one rising edge of `clk` with the levels the host drives on
`rst`, `cmd_valid` and `cmd` (R26, R28). `read` drives `rd_addr` and takes `rd_data`; it needs no edge (R29, R61). -/
inductive HostMove where
  | edge (rst cmdValid : Bool) (cmd : Word)
  | read (a : ReadAddr)
  deriving DecidableEq, Repr

/-- A value the host took from `rd_data`, with the address it drove (R29). -/
structure Reading where
  addr : ReadAddr
  data : Word
  deriving DecidableEq, Repr

/-- The whole machine. -/
structure State where
  /-- the validator's eight state elements (R13) -/
  regs : Regs
  /-- the parameters of the elaboration; no rule writes them (R8, R32, entry 2) -/
  params : Params
  /-- the host's moves still to come; the model's own field (entry 1) -/
  moves : List HostMove
  /-- what the host has read so far, latest first; the model's own field (entry 3) -/
  taken : List Reading
  deriving DecidableEq, Repr

/-- No fault exists: every command has a defined successor in every state (R106, R64). -/
inductive Fault where
  deriving DecidableEq, Repr

/-- The only refusal is the row's own, and no arm of `exec` uses it. A command the validator refuses is a next
state with `err` set (R110). -/
inductive Refusal where
  /-- an instruction that has no meaning yet; raised by `exec` alone, and by no arm of it today; safe -/
  | notModelled (mnemonic : String)
  deriving DecidableEq, Repr

/-- The machine right after reset (R31), elaborated with the default parameters (R8, entry 4), before the host has
moved. -/
def State.reset : State where
  regs := Regs.reset
  params := Config.defaultParams
  moves := []
  taken := []

end Sys2Proof.Machine
end

