-- ==== Sys2Proof/Machine/Ops.lean ====
section
/-! DEFINITION. The shared operations: byte fields, refusing a command, beginning and ending an attempt, taking a
reading. The validator has no trap to enter and none to return from (R106, R114): a refusal and a failed attempt are
the writes below. -/

namespace Sys2Proof.Machine

/-- v[15:8]. -/
def highByte (v : Word) : Byte := v.extractLsb' 8 8

/-- v[7:0]. -/
def lowByte (v : Word) : Byte := v.extractLsb' 0 8

/-- A refused command performs `err <- 1` and nothing else (R64, R110). -/
def Regs.refuse (r : Regs) : Regs := { r with err := true }

/-- An accepted START writes all eight elements (R69). -/
def Regs.beginAttempt (_r : Regs) (m : SensorModel) : Regs where
  st := .busy
  res := .none
  model := m
  cnt := 0
  acc := 0x0000
  rh := 0x0000
  rt := 0x0000
  err := false

/-- An attempt ends in DONE with a result; nothing is saved and nothing redirected (R76, R83, R114). -/
def Regs.endAttempt (r : Regs) (outcome : Result) : Regs := { r with st := .done, res := outcome }

/-- A state with other validator registers. -/
def State.withRegs (s : State) (r : Regs) : State := { s with regs := r }

/-- A state with other host moves to come. -/
def State.withMoves (s : State) (l : List HostMove) : State := { s with moves := l }

/-- The host takes a value from `rd_data`; the validator itself does not change (R29, R38). -/
def State.take (s : State) (a : ReadAddr) (v : Word) : State := { s with taken := ⟨a, v⟩ :: s.taken }

/-- An edge with `rst = 1`: every element takes its reset value, and the parameters stay (R121, R124). -/
def State.applyReset (s : State) : State := s.withRegs Regs.reset

/-- A refused command at the level of the whole state (R110). -/
def State.refuse (s : State) : State := s.withRegs s.regs.refuse

end Sys2Proof.Machine
end

