-- ==== Sys2Proof/Machine/Operands.lean ====
section
/-! DEFINITION. The operands of SAMPLE: the index of the observation, the timeout test, the data bit. -/

namespace Sys2Proof.Machine

/-- The index of the observation to arrive, `i = cnt − 3` (R17, R75). -/
def Regs.index (r : Regs) : Int := (r.cnt.toNat : Int) + Config.firstIndex

/-- An observation is timed out when `t = 1` or `d > TIMEOUT_US`, an unsigned and strict test (R56, R76). -/
def timedOut (p : Params) (t : Bool) (d : Byte) : Bool := t || p.timeoutUs.ult d

/-- The data bit of a duration: 1 when `d > BIT_THRESHOLD_US`, unsigned and strict (R78). -/
def dataBit (p : Params) (d : Byte) : Bool := p.bitThresholdUs.ult d

/-- A data bit is taken at an odd index `i ≥ 0` (R77). -/
def takesBit (i : Int) : Bool := decide (0 ≤ i) && i % 2 == 1

/-- The shift-in of one bit at the low end; bit 15 is lost (R77, R86). -/
def shiftIn (acc : Word) (b : Bool) : Word := (acc <<< 1) ||| BitVec.setWidth 16 (BitVec.ofBool b)

end Sys2Proof.Machine
end

