-- ==== Sys2Proof/Machine/Flags.lean ====
section
/-! DEFINITION. The checksum and the status flags (R24, R27, R92, R93, R98, R100). -/

namespace Sys2Proof.Machine

/-- The byte sum of the four payload bytes, modulo 256 (R92). It is not a CRC (C1 of 90_conflicts.md). -/
def checksum8 (h t : Word) : Byte :=
  BitVec.ofNat 8 ((lowByte h).toNat + (highByte h).toNat + (lowByte t).toNat + (highByte t).toNat)

/-- The code of `st` (R14). -/
def SeqState.code : SeqState → Word
  | .idle => 0
  | .busy => 1
  | .done => 2

/-- The code of `res` (R15, R107). -/
def Result.code : Result → Word
  | .ok => 0
  | .timeout => 1
  | .checksum => 2
  | .none => 3

/-- One flag as a number. -/
def flagBit (b : Bool) : Word := BitVec.setWidth 16 (BitVec.ofBool b)

/-- The received sign of the temperature: bit 7 of `rt` for ModelA (R95), bit 15 for ModelB (R97). -/
def tneg : SensorModel → Word → Bool
  | .modelA, rt => rt.getLsbD 7
  | .modelB, rt => rt.getLsbD 15

/-- VALID = (`res` = OK) (R93). -/
def Regs.valid (r : Regs) : Bool := r.res == .ok

/-- TEMP_NEG = VALID ∧ tneg(model, rt) (R98). -/
def Regs.tempNeg (r : Regs) : Bool := r.valid && tneg r.model r.rt

/-- The output `done` = (`st` = DONE) (R27, R113). -/
def Regs.done (r : Regs) : Bool := r.st == .done

/-- STATUS, by the one formula of R100. -/
def Regs.statusWord (r : Regs) : Word :=
  r.st.code ||| (r.res.code <<< 2) ||| (modelBit r.model <<< 4) ||| (flagBit r.valid <<< 5) |||
    (flagBit r.tempNeg <<< 6) ||| (flagBit r.err <<< 7) ||| (BitVec.setWidth 16 r.cnt <<< 8)

/-- The output `done` of the machine (R26, R27). -/
def State.done (s : State) : Bool := s.regs.done

end Sys2Proof.Machine
end

