-- ==== Sys2Proof/Machine/Payload.lean ====
section
/-! DEFINITION. Decoding the payload, and the value of every read-port register (42_payload_decode.md). Quantities
are computed exactly as naturals and narrowed once, at the register. -/

namespace Sys2Proof.Machine

/-- Humidity in tenths of % RH: R94 for ModelA, R96 for ModelB. There is no clamp. -/
def hum : SensorModel → Word → Nat
  | .modelA, rh => 10 * (highByte rh).toNat + (lowByte rh).toNat
  | .modelB, rh => rh.toNat

/-- The magnitude of the temperature in tenths of °C: R95 for ModelA, R97 for ModelB. -/
def tmag : SensorModel → Word → Nat
  | .modelA, rt => 10 * (highByte rt).toNat + (rt.extractLsb' 0 7).toNat
  | .modelB, rt => (rt.extractLsb' 0 15).toNat

/-- The temperature as a 16-bit two's complement number, the negation of R10 when the sign is set (R95, R97). -/
def temp (m : SensorModel) (rt : Word) : Word :=
  if tneg m rt then BitVec.ofNat 16 ((2 ^ 16 - tmag m rt) % 2 ^ 16) else BitVec.ofNat 16 (tmag m rt)

/-- HUM_DECI, gated by VALID (R99). -/
def Regs.humDeci (r : Regs) : Word := if r.valid then BitVec.ofNat 16 (hum r.model r.rh) else 0x0000

/-- TEMP_DECI, gated by VALID (R99). -/
def Regs.tempDeci (r : Regs) : Word := if r.valid then temp r.model r.rt else 0x0000

/-- SUM, computed from the current snapshots in every state (R92). -/
def Regs.sumWord (r : Regs) : Word := BitVec.setWidth 16 (checksum8 r.rh r.rt)

/-- PARAMS: `TIMEOUT_US` in bits 15..8, `BIT_THRESHOLD_US` in bits 7..0 (R101). -/
def paramsWord (p : Params) : Word := p.timeoutUs ++ p.bitThresholdUs

/-- `R[a]`, the read primitive of R39 over the map of R37: what `rd_data` shows while `rd_addr` is `a` (R29). -/
def State.readPort (s : State) (a : ReadAddr) : Word :=
  if a = 0#3 then s.regs.statusWord
  else if a = 1#3 then s.regs.rh
  else if a = 2#3 then s.regs.rt
  else if a = 3#3 then s.regs.acc
  else if a = 4#3 then s.regs.sumWord
  else if a = 5#3 then s.regs.humDeci
  else if a = 6#3 then s.regs.tempDeci
  else paramsWord s.params

/-- What HUM_DECI = n means: exactly n/10 % RH (R91, R105). -/
def humidityPercent (n : Word) : Rat := (n.toNat : Rat) / 10

/-- What TEMP_DECI = n means: exactly n/10 °C, n read as two's complement (R91, R105). -/
def temperatureCelsius (n : Word) : Rat := (n.toInt : Rat) / 10

/-- The source's float temperature is a negative zero: ModelA with TEMP_NEG = 1 and TEMP_DECI = 0. For ModelB it is a
positive one (R105). -/
def Regs.negativeZero (r : Regs) : Bool := r.tempNeg && r.model == .modelA && r.tempDeci == 0x0000

/-- The humidity a consumer renders as a float; none is the source's NaN, when VALID = 0 (R99, R105, entry 13). -/
def Regs.consumerHumidity (r : Regs) : Option Nat :=
  if r.valid then some (Config.floatConv (r.humDeci.toNat : Int) false) else none

/-- The temperature a consumer renders as a float; none is the source's NaN, when VALID = 0 (R99, R105, entry 13). -/
def Regs.consumerTemperature (r : Regs) : Option Nat :=
  if r.valid then some (Config.floatConv r.tempDeci.toInt r.negativeZero) else none

end Sys2Proof.Machine
end

