-- ==== Sys2Proof/Machine/Control.lean ====
section
/-! DEFINITION. The meanings of the control commands NOP and START (40_control.md). -/

namespace Sys2Proof.Machine

/-- NOP(s) = s, in every state; `err` is neither set nor cleared (R68). -/
def execNop (s : State) : Host.Outcome State Fault Refusal := .next s

/-- START m: accepted in IDLE and DONE (R69), refused in BUSY (R70). -/
def Regs.start (r : Regs) (m : SensorModel) : Regs := if r.st = .busy then r.refuse else r.beginAttempt m

/-- START m (R69, R70). -/
def execStart (m : SensorModel) (s : State) : Host.Outcome State Fault Refusal :=
  .next (s.withRegs (s.regs.start m))

end Sys2Proof.Machine
end

