-- ==== Sys2Proof/Machine/ReadPort.lean ====
section
/-! DEFINITION. The meanings of the eight register reads (R37, R61): the host takes the register's value from
`rd_data`, and no state element changes (R38). -/

namespace Sys2Proof.Machine

/-- RD STATUS, address 0 (R100). -/
def execRdStatus (s : State) : Host.Outcome State Fault Refusal := .next (s.take 0#3 s.regs.statusWord)

/-- RD RAW_HUM, address 1: `rh`, not gated by VALID (R102). -/
def execRdRawHum (s : State) : Host.Outcome State Fault Refusal := .next (s.take 1#3 s.regs.rh)

/-- RD RAW_TEMP, address 2: `rt`, not gated by VALID (R102). -/
def execRdRawTemp (s : State) : Host.Outcome State Fault Refusal := .next (s.take 2#3 s.regs.rt)

/-- RD ACC, address 3: `acc`, not gated by VALID (R102). -/
def execRdAcc (s : State) : Host.Outcome State Fault Refusal := .next (s.take 3#3 s.regs.acc)

/-- RD SUM, address 4 (R92). -/
def execRdSum (s : State) : Host.Outcome State Fault Refusal := .next (s.take 4#3 s.regs.sumWord)

/-- RD HUM_DECI, address 5 (R99). -/
def execRdHumDeci (s : State) : Host.Outcome State Fault Refusal := .next (s.take 5#3 s.regs.humDeci)

/-- RD TEMP_DECI, address 6 (R99). -/
def execRdTempDeci (s : State) : Host.Outcome State Fault Refusal := .next (s.take 6#3 s.regs.tempDeci)

/-- RD PARAMS, address 7 (R101). -/
def execRdParams (s : State) : Host.Outcome State Fault Refusal := .next (s.take 7#3 (paramsWord s.params))

end Sys2Proof.Machine
end

