-- ==== Sys2Proof/Machine/Sample.lean ====
section
/-! DEFINITION. The meaning of SAMPLE (41_sample.md), in the order of R111: refusal, timeout, then bit, snapshots
and advance, then the checksum at the last index. -/

namespace Sys2Proof.Machine

/-- The accumulator after the shift-in of R77, for an observation that is not timed out. -/
def Regs.shifted (r : Regs) (p : Params) (d : Byte) : Word :=
  if takesBit r.index then shiftIn r.acc (dataBit p d) else r.acc

/-- The writes of R80, R81 and R82: the snapshots at indices 31 and 63, the accumulator's reset at 63, the
advance. -/
def Regs.advance (r : Regs) (p : Params) (d : Byte) : Regs :=
  { r with
    acc := if r.index = Config.tempSnapIndex then 0x0000 else r.shifted p d
    rh := if r.index = Config.humSnapIndex then r.shifted p d else r.rh
    rt := if r.index = Config.tempSnapIndex then r.shifted p d else r.rt
    cnt := r.cnt + 1 }

/-- The result of a complete attempt: the byte sum of the snapshots against acc[7:0] (R83). -/
def Regs.verdict (r : Regs) : Result := if checksum8 r.rh r.rt = lowByte r.acc then .ok else .checksum

/-- An accepted observation that is not timed out; the one at index 79 ends the attempt (R83, R84). -/
def Regs.observe (r : Regs) (p : Params) (d : Byte) : Regs :=
  if r.index = Config.lastIndex then (r.advance p d).endAttempt (r.advance p d).verdict else r.advance p d

/-- SAMPLE(s, t, d) of R84. -/
def Regs.sample (r : Regs) (p : Params) (t : Bool) (d : Byte) : Regs :=
  if r.st ≠ .busy then r.refuse
  else if timedOut p t d then r.endAttempt .timeout
  else r.observe p d

/-- SAMPLE t, d (R84). -/
def execSample (t : Bool) (d : Byte) (s : State) : Host.Outcome State Fault Refusal :=
  .next (s.withRegs (s.regs.sample s.params t d))

end Sys2Proof.Machine
end

