-- ==== Sys2Proof/Machine/Dispatch.lean ====
section
/-! DEFINITION. One arm per instruction. -/

namespace Sys2Proof.Machine

def exec (i : Instr) (s : State) : Host.Outcome State Fault Refusal :=
  match i with
  | .nop => Sys2Proof.Machine.execNop s
  | .start m => Sys2Proof.Machine.execStart m s
  | .sample t d => Sys2Proof.Machine.execSample t d s
  | .rdStatus => Sys2Proof.Machine.execRdStatus s
  | .rdRawHum => Sys2Proof.Machine.execRdRawHum s
  | .rdRawTemp => Sys2Proof.Machine.execRdRawTemp s
  | .rdAcc => Sys2Proof.Machine.execRdAcc s
  | .rdSum => Sys2Proof.Machine.execRdSum s
  | .rdHumDeci => Sys2Proof.Machine.execRdHumDeci s
  | .rdTempDeci => Sys2Proof.Machine.execRdTempDeci s
  | .rdParams => Sys2Proof.Machine.execRdParams s

end Sys2Proof.Machine
end

