-- ==== Sys2Proof/Machine/Cycle.lean ====
section
/-! DEFINITION. One move of the host: a clock edge (R28) or a read (R29). -/

namespace Sys2Proof.Machine

/-- Exec(s, w) of R64: a legal word runs its instruction, an illegal one is refused. -/
def runCommand (w : Word) (s : State) : Host.Outcome State Fault Refusal :=
  match decode (.command w) with
  | .ok i => exec i s
  | .error _ => .next s.refuse

/-- One rising edge, in the priority order of R28: reset, then a presented command, else nothing (R67, R112). -/
def runEdge (rst cmdValid : Bool) (cmd : Word) (s : State) : Host.Outcome State Fault Refusal :=
  if rst then .next s.applyReset
  else if cmdValid then runCommand cmd s
  else .next s

/-- A read of address `a` (R29, R61): the instruction that `rd_addr` names, with no edge. -/
def runRead (a : ReadAddr) (s : State) : Host.Outcome State Fault Refusal := exec (decodeReadAddr a) s

/-- One move of the host. -/
def runMove : HostMove → State → Host.Outcome State Fault Refusal
  | .edge rst cmdValid cmd, s => runEdge rst cmdValid cmd s
  | .read a, s => runRead a s

/-- The move that puts a word on its port: a command is presented with `rst = 0` and `cmd_valid = 1` (R51), an
address is read (R61). -/
def portMove : PortWord → HostMove
  | .command w => .edge false true w
  | .readAddr a => .read a

/-- The host's next move presents the opcode-table word; a word too large for its port is presented modulo the
port's width (entry 8). -/
def tableMove (nbits w : Nat) : HostMove :=
  if nbits ≤ 8 then .read (BitVec.ofNat 3 w) else .edge false true (BitVec.ofNat 16 w)

end Sys2Proof.Machine
end

