-- ==== Sys2Proof/Machine/Step.lean ====
section
/-! DEFINITION. One step of the machine. -/

namespace Sys2Proof.Machine

/-- The host makes its next move. When it has none left, the edge finds `rst = 0` and `cmd_valid = 0`, and nothing
changes (R28, R67, entry 1). -/
def step (s : State) : Host.Outcome State Fault Refusal :=
  match s.moves with
  | [] => .next s
  | m :: rest => runMove m (s.withMoves rest)

/-- `s` with the opcode-table word as the host's next move, before those already there (entry 1). -/
def State.withFetchWord (s : State) (nbits w : Nat) : State := s.withMoves (tableMove nbits w :: s.moves)

end Sys2Proof.Machine
end

