-- ==== Sys2Proof/Machine/Assembler.lean ====
section
/-! DEFINITION. The assembler and the disassembler of R62, R63 and R65, over lines and over text. Text is a list of
characters. -/

namespace Sys2Proof.Machine

/-- `sample D` (R62). -/
def sampleWord (d : Byte) : PortWord := encode (.sample false d)

/-- `hs`: the three handshake observations (R63). -/
def hsWords : List PortWord := [sampleWord 20, sampleWord 80, sampleWord 80]

/-- `bit0` or `bit1`: a low phase, then the high phase that carries the bit (R63). -/
def bitWords (b : Bool) : List PortWord := [sampleWord 50, sampleWord (if b then 70 else 26)]

/-- `byte V`, most significant bit first: 16 words (R63). -/
def byteWords (v : Byte) : List PortWord :=
  bitWords (v.getLsbD 7) ++ bitWords (v.getLsbD 6) ++ bitWords (v.getLsbD 5) ++ bitWords (v.getLsbD 4) ++
    bitWords (v.getLsbD 3) ++ bitWords (v.getLsbD 2) ++ bitWords (v.getLsbD 1) ++ bitWords (v.getLsbD 0)

/-- `frame H, T, C`: the 83 observations of one attempt in index order (R63). -/
def frameWords (h t : Word) (c : Byte) : List PortWord :=
  hsWords ++ byteWords (highByte h) ++ byteWords (lowByte h) ++ byteWords (highByte t) ++ byteWords (lowByte t) ++
    byteWords c

/-- What one line puts on the ports, for operands in range (R62, R63). -/
def expandLine : AsmLine → List PortWord
  | .nop => [encode .nop]
  | .start m => [encode (.start m)]
  | .sample d => [encode (.sample false (BitVec.ofNat 8 d))]
  | .sampleT d => [encode (.sample true (BitVec.ofNat 8 d))]
  | .word w => [.command (BitVec.ofNat 16 w)]
  | .rd a => [.readAddr (BitVec.ofNat 3 a)]
  | .hs => hsWords
  | .bit0 => bitWords false
  | .bit1 => bitWords true
  | .byte v => byteWords (BitVec.ofNat 8 v)
  | .frame h t c => frameWords (BitVec.ofNat 16 h) (BitVec.ofNat 16 t) (BitVec.ofNat 8 c)
  | .frameOk h t =>
    frameWords (BitVec.ofNat 16 h) (BitVec.ofNat 16 t) (checksum8 (BitVec.ofNat 16 h) (BitVec.ofNat 16 t))
  | .timeout => [encode (.sample true 0)]

/-- The assembler on one line: an operand out of range is refused (R62). -/
def assembleLine (l : AsmLine) : Option (List PortWord) := if l.wellFormed then some (expandLine l) else none

/-- The disassembler on one command word (R65). -/
def disassemble (w : Word) : AsmLine :=
  match decodeCommand w with
  | .ok .nop => .nop
  | .ok (.start m) => .start m
  | .ok (.sample false d) => .sample d.toNat
  | .ok (.sample true d) => .sampleT d.toNat
  | _ => .word w.toNat

/-- A line up to its comment: `;` starts one (R62). -/
def stripComment : List Char → List Char
  | [] => []
  | c :: cs => if c = ';' then [] else c :: stripComment cs

/-- Lower case; the syntax is case-insensitive (R62). -/
def lowerChar (c : Char) : Char :=
  if 'A'.toNat ≤ c.toNat ∧ c.toNat ≤ 'Z'.toNat then Char.ofNat (c.toNat + 32) else c

/-- Between tokens: space, tab and carriage return (entry 11). -/
def isBlank (c : Char) : Bool := c == ' ' || c == '\t' || c == '\r'

/-- A finished token, if it has any character. -/
def flushToken (rev : List Char) : List (List Char) := if rev.isEmpty then [] else [rev.reverse]

/-- The tokens of a line; a comma is a token of its own. The second argument holds the token being read, last
character first. -/
def tokens : List Char → List Char → List (List Char)
  | [], rev => flushToken rev
  | c :: cs, rev =>
    if isBlank c then flushToken rev ++ tokens cs []
    else if c = ',' then flushToken rev ++ [','] :: tokens cs []
    else tokens cs (c :: rev)

/-- The value of a digit in a base of at most sixteen. -/
def digitValue (base : Nat) (c : Char) : Option Nat :=
  let n := c.toNat
  let v := if '0'.toNat ≤ n ∧ n ≤ '9'.toNat then n - '0'.toNat
    else if 'a'.toNat ≤ n ∧ n ≤ 'f'.toNat then n - 'a'.toNat + 10
    else 16
  if v < base then some v else none

/-- The number of a list of digits, after a value already read. -/
def digitsValue (base : Nat) : List Char → Nat → Option Nat
  | [], acc => some acc
  | c :: cs, acc =>
    match digitValue base c with
    | some v => digitsValue base cs (base * acc + v)
    | none => none

/-- A number, decimal or `0x` hexadecimal (R62). -/
def parseNumber : List Char → Option Nat
  | '0' :: 'x' :: ds => if ds.isEmpty then none else digitsValue 16 ds 0
  | ds => if ds.isEmpty then none else digitsValue 10 ds 0

/-- A register NAME of R37, in lower case, or an address (R62). -/
def parseRegister (t : List Char) : Option Nat :=
  if t = ['s', 't', 'a', 't', 'u', 's'] then some 0
  else if t = ['r', 'a', 'w', '_', 'h', 'u', 'm'] then some 1
  else if t = ['r', 'a', 'w', '_', 't', 'e', 'm', 'p'] then some 2
  else if t = ['a', 'c', 'c'] then some 3
  else if t = ['s', 'u', 'm'] then some 4
  else if t = ['h', 'u', 'm', '_', 'd', 'e', 'c', 'i'] then some 5
  else if t = ['t', 'e', 'm', 'p', '_', 'd', 'e', 'c', 'i'] then some 6
  else if t = ['p', 'a', 'r', 'a', 'm', 's'] then some 7
  else parseNumber t

/-- A line of one token. -/
def parseBare (k : List Char) : Option AsmLine :=
  if k = ['n', 'o', 'p'] then some .nop
  else if k = ['h', 's'] then some .hs
  else if k = ['b', 'i', 't', '0'] then some .bit0
  else if k = ['b', 'i', 't', '1'] then some .bit1
  else if k = ['t', 'i', 'm', 'e', 'o', 'u', 't'] then some .timeout
  else none

/-- A line of a name and one operand. -/
def parseUnary (k x : List Char) : Option AsmLine :=
  if k = ['s', 't', 'a', 'r', 't'] then
    if x = ['a'] then some (.start .modelA) else if x = ['b'] then some (.start .modelB) else none
  else if k = ['s', 'a', 'm', 'p', 'l', 'e'] then (parseNumber x).map .sample
  else if k = ['s', 'a', 'm', 'p', 'l', 'e', '.', 't'] then (parseNumber x).map .sampleT
  else if k = ['.', 'w', 'o', 'r', 'd'] then (parseNumber x).map .word
  else if k = ['b', 'y', 't', 'e'] then (parseNumber x).map .byte
  else if k = ['r', 'd'] then (parseRegister x).map .rd
  else none

/-- `frame.ok H, T` (R63). -/
def parseFrameOk (k h t : List Char) : Option AsmLine :=
  if k = ['f', 'r', 'a', 'm', 'e', '.', 'o', 'k'] then
    match parseNumber h, parseNumber t with
    | some h, some t => some (.frameOk h t)
    | _, _ => none
  else none

/-- `frame H, T, C` (R63). -/
def parseFrame (k h t c : List Char) : Option AsmLine :=
  if k = ['f', 'r', 'a', 'm', 'e'] then
    match parseNumber h, parseNumber t, parseNumber c with
    | some h, some t, some c => some (.frame h t c)
    | _, _, _ => none
  else none

/-- A line from its tokens (R62, R63). -/
def parseTokens : List (List Char) → Option AsmLine
  | [k] => parseBare k
  | [k, x] => parseUnary k x
  | [k, h, [','], t] => parseFrameOk k h t
  | [k, h, [','], t, [','], c] => parseFrame k h t c
  | _ => none

/-- One line of text: no line of assembly where it is empty or all comment (entry 11), else exactly one. -/
def parseLine (cs : List Char) : Option (List AsmLine) :=
  match tokens ((stripComment cs).map lowerChar) [] with
  | [] => some []
  | ts => (parseTokens ts).map (fun l => [l])

/-- The lines of a text. The second argument holds the line being read, last character first. -/
def splitLines : List Char → List Char → List (List Char)
  | [], rev => [rev.reverse]
  | c :: cs, rev => if c = '\n' then rev.reverse :: splitLines cs [] else splitLines cs (c :: rev)

/-- What a list of lines assembles to; one bad line refuses the whole. -/
def assembleLines : List AsmLine → Option (List PortWord)
  | [] => some []
  | l :: ls =>
    match assembleLine l, assembleLines ls with
    | some ws, some more => some (ws ++ more)
    | _, _ => none

/-- The lines of assembly of a list of text lines; one bad line refuses the whole. -/
def parseLines : List (List Char) → Option (List AsmLine)
  | [] => some []
  | cs :: rest =>
    match parseLine cs, parseLines rest with
    | some ls, some more => some (ls ++ more)
    | _, _ => none

/-- The assembler on a text: one command per line (R62). -/
def assembleText (text : List Char) : Option (List PortWord) :=
  match parseLines (splitLines text []) with
  | some ls => assembleLines ls
  | none => none

/-- One digit as a character. -/
def digitChar (v : Nat) : Char := if v < 10 then Char.ofNat ('0'.toNat + v) else Char.ofNat ('a'.toNat + (v - 10))

/-- A number below 1000 in decimal, without leading zeros (R65). -/
def decimalText (n : Nat) : List Char :=
  if n < 10 then [digitChar n]
  else if n < 100 then [digitChar (n / 10), digitChar (n % 10)]
  else [digitChar (n / 100), digitChar (n / 10 % 10), digitChar (n % 10)]

/-- A number below 65536 as `0x` and four hexadecimal digits (entry 11). -/
def hexText (n : Nat) : List Char :=
  ['0', 'x', digitChar (n / 4096), digitChar (n / 256 % 16), digitChar (n / 16 % 16), digitChar (n % 16)]

/-- The text of a disassembled word: D in decimal (R65), an illegal word in hexadecimal (entry 11). -/
def disassembleText (w : Word) : List Char :=
  match decodeCommand w with
  | .ok .nop => ['n', 'o', 'p']
  | .ok (.start .modelA) => ['s', 't', 'a', 'r', 't', ' ', 'a']
  | .ok (.start .modelB) => ['s', 't', 'a', 'r', 't', ' ', 'b']
  | .ok (.sample false d) => ['s', 'a', 'm', 'p', 'l', 'e', ' '] ++ decimalText d.toNat
  | .ok (.sample true d) => ['s', 'a', 'm', 'p', 'l', 'e', '.', 't', ' '] ++ decimalText d.toNat
  | _ => ['.', 'w', 'o', 'r', 'd', ' '] ++ hexText w.toNat

end Sys2Proof.Machine
end

