-- ==== Sys2Proof/Machine/Attempt.lean ====
section
/-! DEFINITION. Attempts as lists of host moves, and the payload that a list of durations carries (R42, R43, R87). -/

namespace Sys2Proof.Machine

/-- The host presents each of a list of port words in turn. -/
def presented (l : List PortWord) : List HostMove := l.map portMove

/-- START m on the command port. -/
def startMove (m : SensorModel) : HostMove := portMove (encode (.start m))

/-- SAMPLE t, d on the command port. -/
def sampleMove (t : Bool) (d : Byte) : HostMove := portMove (encode (.sample t d))

/-- Observations without the timeout flag, in order. -/
def sampleMoves (ds : List Byte) : List HostMove := ds.map (sampleMove false)

/-- Is a move a SAMPLE that reaches the validator? -/
def isSampleMove : HostMove → Bool
  | .edge false true w =>
    match decodeCommand w with
    | .ok (.sample _ _) => true
    | _ => false
  | _ => false

/-- Is a move a START that reaches the validator? -/
def isStartMove : HostMove → Bool
  | .edge false true w =>
    match decodeCommand w with
    | .ok (.start _) => true
    | _ => false
  | _ => false

/-- Is a move an edge with `rst = 1`? -/
def isResetMove : HostMove → Bool
  | .edge true _ _ => true
  | _ => false

/-- None of the durations is timed out on its own (R76). -/
def OnTime (p : Params) (ds : List Byte) : Prop := ∀ d ∈ ds, d.toNat ≤ p.timeoutUs.toNat

/-- The bit that a list of durations delivers at index `i ≥ 0`; index `i` is the observation at position `i + 3`
(R75, R78). -/
def bitAtIndex (p : Params) (ds : List Byte) (i : Nat) : Bool := dataBit p (ds.getD (i + Config.nHandshake) 0)

/-- Eight data bits as a byte, from the odd index `first` on, most significant bit first (R42). -/
def byteFromIndex (p : Params) (ds : List Byte) (first : Nat) : Byte :=
  BitVec.ofBool (bitAtIndex p ds first) ++ BitVec.ofBool (bitAtIndex p ds (first + 2)) ++
    BitVec.ofBool (bitAtIndex p ds (first + 4)) ++ BitVec.ofBool (bitAtIndex p ds (first + 6)) ++
    BitVec.ofBool (bitAtIndex p ds (first + 8)) ++ BitVec.ofBool (bitAtIndex p ds (first + 10)) ++
    BitVec.ofBool (bitAtIndex p ds (first + 12)) ++ BitVec.ofBool (bitAtIndex p ds (first + 14))

/-- Byte `k` of the payload on the wire, `k` in 0..4, in the order of R43: humidity high and low, temperature high
and low, checksum. -/
def wireByte (p : Params) (ds : List Byte) (k : Nat) : Byte := byteFromIndex p ds (16 * k + 1)

end Sys2Proof.Machine
end

