-- ==== Sys2Proof/Machine/HostContract.lean ====
section
/-! DEFINITION. The host's side of the contract (R122, R125, R129, R131 to R133): which interaction a move is, which
moves are its liberty, and a checker of the duties. The validator's rules do not depend on any of it: a host that
breaks a duty still gets the defined responses (R129). -/

namespace Sys2Proof.Machine

/-- The rows of the table of R129. -/
inductive Interaction where
  | reset
  | beginAttempt
  | observation
  | idle
  | nop
  | read
  | wait
  deriving DecidableEq, Repr

/-- The row a move belongs to; an illegal word belongs to none (R129). A wait sends nothing, so no move is one. -/
def interactionOf : HostMove → Option Interaction
  | .edge true _ _ => some .reset
  | .edge false false _ => some .idle
  | .edge false true w =>
    match decodeCommand w with
    | .ok (.start _) => some .beginAttempt
    | .ok (.sample _ _) => some .observation
    | .ok .nop => some .nop
    | _ => none
  | .read _ => some .read

/-- The last column of R129: what the host may do in a given sequencer state as it likes. An observation is never a
liberty, a START only in IDLE or DONE. DESIGN CHOICE (entry 16), safe: the cell of a wait says only that it is the
only wait and what lifts it, step 4 of R125 says the host must wait, and the model takes a wait for a liberty in every
state. -/
def isLiberty (st : SeqState) : Interaction → Bool
  | .reset => true
  | .beginAttempt => decide (st ≠ .busy)
  | .observation => false
  | .idle => true
  | .nop => true
  | .read => true
  | .wait => true

/-- Where a host that keeps its duties stands: before the first reset, between attempts, or in an attempt with `k`
observations delivered. -/
inductive HostPhase where
  | powerUp
  | ready
  | attempt (k : Nat)
  deriving DecidableEq, Repr

/-- The phase after an observation: a timed-out one (R133) and the 83rd (R131) end the attempt. -/
def observedPhase (p : Params) (k : Nat) (t : Bool) (d : Byte) : HostPhase :=
  if timedOut p t d then .ready else if k + 1 = Config.nObs then .ready else .attempt (k + 1)

/-- The phase after a command word, where the duties allow it: START between attempts only (R125), SAMPLE in an
attempt only (R131, R133), no illegal word (entry 14). DESIGN CHOICE (entry 17), safe: a host may start again without
the wait and the reads of steps 4 and 5 of R125, since R129 makes START in DONE and reads liberties. -/
def commandPhase (p : Params) (w : Word) : HostPhase → Option HostPhase
  | .powerUp => none
  | .ready =>
    match decodeCommand w with
    | .ok .nop => some .ready
    | .ok (.start _) => some (.attempt 0)
    | _ => none
  | .attempt k =>
    match decodeCommand w with
    | .ok .nop => some (.attempt k)
    | .ok (.sample t d) => some (observedPhase p k t d)
    | _ => none

/-- The phase after a move, where the duties allow it. Reset is allowed always and comes before the first command
(R122, R125); idle cycles and reads are allowed always (R129). -/
def movePhase (p : Params) (ph : HostPhase) : HostMove → Option HostPhase
  | .edge true _ _ => some .ready
  | .edge false false _ => some ph
  | .edge false true w => commandPhase p w ph
  | .read _ => some ph

/-- The phase after a list of moves, `none` where one of them breaks a duty. -/
def dutifulPhase (p : Params) : HostPhase → List HostMove → Option HostPhase
  | ph, [] => some ph
  | ph, m :: rest =>
    match movePhase p ph m with
    | some ph' => dutifulPhase p ph' rest
    | none => none

/-- The pin level the sampler waits on at index `i`: high for an odd index, low for an even one (R88, R132). -/
def waitsOnHigh (i : Int) : Bool := i % 2 == 1

/-- The sampler's report of an observation measured in whole microseconds: `d` saturated at 255 (R132, D7). -/
def samplerReport (gaveUp : Bool) (wholeUs : Nat) : Instr := .sample gaveUp (BitVec.ofNat 8 (min wholeUs 255))

/-- The sampler's report of a real elapsed time in µs: `t = 1` if it exceeded the timeout, `d` by the sampler's own
rounding, which the spec leaves open (R132, entry 12). -/
def samplerMeasure (p : Params) (elapsedUs : Rat) : Instr :=
  samplerReport (decide ((p.timeoutUs.toNat : Rat) < elapsedUs)) (Config.durationQuantisation elapsedUs)

end Sys2Proof.Machine
end

