-- ==== Sys2Proof/Safety.lean ====
section
/-! DEFINITION. What every reachable state satisfies, and which states are reachable. -/

namespace Sys2Proof.Machine

/-- R22 item 1. -/
abbrev Regs.IdleIsClean (r : Regs) : Prop :=
  r.st = .idle → r.res = .none ∧ r.cnt = 0 ∧ r.acc = 0 ∧ r.rh = 0 ∧ r.rt = 0

/-- R22 item 2. -/
abbrev Regs.BusyHasNoResult (r : Regs) : Prop := r.st = .busy → r.res = .none ∧ r.cnt.toNat ≤ 82

/-- R22 item 3. -/
abbrev Regs.DoneHasResult (r : Regs) : Prop :=
  r.st = .done → r.res = .ok ∨ r.res = .timeout ∨ r.res = .checksum

/-- R22 item 4. -/
abbrev Regs.CompleteIsFull (r : Regs) : Prop :=
  r.res = .ok ∨ r.res = .checksum → r.cnt.toNat = 83 ∧ highByte r.acc = 0

/-- R22 item 5. -/
abbrev Regs.TimeoutIsEarly (r : Regs) : Prop := r.res = .timeout → r.cnt.toNat ≤ 82

/-- R22 item 6. -/
abbrev Regs.PendingSnapshotsAreZero (r : Regs) : Prop :=
  (r.cnt.toNat ≤ 34 → r.rh = 0) ∧ (r.cnt.toNat ≤ 66 → r.rt = 0)

/-- The six invariants of R22. -/
abbrev Regs.Invariants (r : Regs) : Prop :=
  r.IdleIsClean ∧ r.BusyHasNoResult ∧ r.DoneHasResult ∧ r.CompleteIsFull ∧ r.TimeoutIsEarly ∧
    r.PendingSnapshotsAreZero

/-- What makes R22 inductive: after the reset of the accumulator at index 63 one bit enters it for every two
observations, so eight shifts reach index 79 (the reason R89 gives for acc[15:8] = 0; DEDUCED, entry 15). -/
abbrev Regs.ChecksumByteGrows (r : Regs) : Prop :=
  r.st = .busy → 67 ≤ r.cnt.toNat → r.acc.toNat < 2 ^ ((r.cnt.toNat - 67) / 2)

/-- The invariant every step keeps: legal parameters (R8), R22, and the bound that makes R22 inductive. -/
def State.Inv (s : State) : Prop := Config.Legal s.params ∧ s.regs.Invariants ∧ s.regs.ChecksumByteGrows

/-- The states of the runs from reset: any legal elaboration, any moves of the host (R122: a claim takes "reset has
been applied" as a premise). -/
inductive Reachable : State → Prop where
  | reset (p : Params) (l : List HostMove) (legal : Config.Legal p) :
      Reachable { State.reset with params := p, moves := l }
  | step (s t : State) (before : Reachable s) (taken : step s = .next t) : Reachable t

/-- A run is clean so far when no command of it was refused since the last START or reset (R21, R110). -/
def CleanSoFar (s : State) : Prop := s.regs.err = false

end Sys2Proof.Machine
end

