-- ==== Sys2Proof/Certificates/Slice0/Obligations.lean ====
section
/-! DEFINITION. The statements for the provers. Each docstring names the sentence of spec/ it formalises, or says
that it is derived and from where. "Entry <n>" is notes/assumptions/<n>.md. -/

open Sys2Proof Sys2Proof.Machine

/-! ## Encoding -/

/-- Words written out in the spec's own decode table (95_test_vectors.md section 2.1) and the eight read addresses of
the opcode table decode to what they stand for. -/
def Obligations.SpecWordsDecode : Prop :=
  decodeTableWord 16 0x0000 = some .nop ∧ decodeTableWord 16 0x1000 = some (.start .modelA) ∧
    decodeTableWord 16 0x1001 = some (.start .modelB) ∧ decodeTableWord 16 0x201E = some (.sample false 30) ∧
    decodeTableWord 16 0x20FF = some (.sample false 255) ∧ decodeTableWord 16 0x2100 = some (.sample true 0) ∧
    decodeTableWord 16 0x21FF = some (.sample true 255) ∧
    (∀ w ∈ [0x0001, 0x0800, 0x1002, 0x1800, 0x2200, 0x2E46, 0x3000, 0x8000, 0xFFFF], decodeTableWord 16 w = none) ∧
    (List.range 8).map (decodeTableWord 8) =
      [some .rdStatus, some .rdRawHum, some .rdRawTemp, some .rdAcc, some .rdSum, some .rdHumDeci, some .rdTempDeci,
        some .rdParams]

/-- A port word decodes to an instruction exactly when it is that instruction's encoding: decoding undoes encoding
for every instruction, and no second word decodes to the same instruction. Derived from R52 to R55 and R61. -/
def Obligations.DecodeIffEncode : Prop :=
  ∀ (pw : PortWord) (i : Instr), i.wellFormed = true → (decode pw = .ok i ↔ encode i = pw)

/-- R52: "A word w is the command X exactly when (w & mask_X) == match_X", for the three rows of the opcode map, which
are disjoint; and every other word is illegal. -/
def Obligations.CommandIsMaskAndMatch : Prop :=
  ∀ w : Word,
    (decodeCommand w = .ok .nop ↔ w &&& 0xFFFF#16 = 0x0000#16) ∧
      ((∃ m, decodeCommand w = .ok (.start m)) ↔ w &&& 0xFFFE#16 = 0x1000#16) ∧
      ((∃ t d, decodeCommand w = .ok (.sample t d)) ↔ w &&& 0xFE00#16 = 0x2000#16) ∧
      ((∃ k, decodeCommand w = .error k) ↔
        w &&& 0xFFFF#16 ≠ 0x0000#16 ∧ w &&& 0xFFFE#16 ≠ 0x1000#16 ∧ w &&& 0xFE00#16 ≠ 0x2000#16) ∧
      ¬(w &&& 0xFFFF#16 = 0x0000#16 ∧ w &&& 0xFFFE#16 = 0x1000#16) ∧
      ¬(w &&& 0xFFFF#16 = 0x0000#16 ∧ w &&& 0xFE00#16 = 0x2000#16) ∧
      ¬(w &&& 0xFFFE#16 = 0x1000#16 ∧ w &&& 0xFE00#16 = 0x2000#16)

/-- The fields of R54, R55 and R56: M = w[0] chooses the model, T = w[8], and D = w[7:0] is the unsigned remainder of
the word modulo 256, for every START and SAMPLE word. Derived: R56 also speaks of the comparisons. -/
def Obligations.CommandFieldsAreReadOut : Prop :=
  (∀ w : Word, 0x1000 ≤ w.toNat → w.toNat ≤ 0x1001 →
      decodeCommand w = .ok (.start (if w.toNat % 2 = 1 then .modelB else .modelA))) ∧
    ∀ w : Word, 0x2000 ≤ w.toNat → w.toNat ≤ 0x21FF →
      ∃ d : Byte, decodeCommand w = .ok (.sample (decide (w.toNat / 256 % 2 = 1)) d) ∧ d.toNat = w.toNat % 256

/-- R58: "A word whose OP is legal but whose reserved bits are not all zero is illegal (rule R57), not treated as the
command with those bits ignored." Each such word, in every state, sets `err` and does nothing else; so does every word
whose OP is illegal. -/
def Obligations.ReservedBitsMakeAWordIllegal : Prop :=
  ∀ (w : Word) (s : State),
    (w.toNat / 4096 = 0 ∧ w.toNat % 4096 ≠ 0) ∨ (w.toNat / 4096 = 1 ∧ w.toNat % 4096 / 2 ≠ 0) ∨
        (w.toNat / 4096 = 2 ∧ w.toNat % 4096 / 512 ≠ 0) ∨ 3 ≤ w.toNat / 4096 →
      (∃ k, decodeCommand w = .error k) ∧
        runCommand w s = .next { s with regs := { s.regs with err := true } }

/-- The field count check of 30_encoding.md section 6, with the four counts of illegal words of its section 3: over
all 65,536 words. Derived: the spec gives these numbers as derived. -/
def Obligations.WordCounts : Prop :=
  let count (f : Except IllegalWord Instr → Bool) : Nat :=
    (List.range 0x10000).countP (fun n => f (decodeCommand (BitVec.ofNat 16 n)))
  count (fun x => match x with | .ok .nop => true | _ => false) = 1 ∧
    count (fun x => match x with | .ok (.start _) => true | _ => false) = 2 ∧
    count (fun x => match x with | .ok (.sample _ _) => true | _ => false) = 512 ∧
    count (fun x => match x with | .ok (.sample t _) => t | _ => false) = 256 ∧
    count (fun x => match x with | .error .illegalOp => true | _ => false) = 53248 ∧
    count (fun x => match x with | .error .reservedNop => true | _ => false) = 4095 ∧
    count (fun x => match x with | .error .reservedStart => true | _ => false) = 4094 ∧
    count (fun x => match x with | .error .reservedSample => true | _ => false) = 3584

/-- 30_encoding.md section 5, "Disassembly": assembling what a word disassembles to gives back the same word, both as
a line and as printed text. Derived; the text of an illegal word's number is the model's choice (entry 11). -/
def Obligations.DisassemblyAssemblesBack : Prop :=
  ∀ w : Word, assembleLine (disassemble w) = some [.command w] ∧
    assembleText (disassembleText w) = some [.command w]

/-- 30_encoding.md section 5, "An assembler refuses a D outside 0..255 and a W outside 0..0xFFFF", and the words of
`sample D`, `sample.t D` and `.word W` in range. Derived: the rule also lists the lexical form. -/
def Obligations.AssemblerRangesAndWords : Prop :=
  (∀ d : Nat, assembleLine (.sample d) =
      if d ≤ 255 then some [.command (BitVec.ofNat 16 (0x2000 + d))] else none) ∧
    (∀ d : Nat, assembleLine (.sampleT d) =
      if d ≤ 255 then some [.command (BitVec.ofNat 16 (0x2100 + d))] else none) ∧
    ∀ w : Nat, assembleLine (.word w) = if w ≤ 0xFFFF then some [.command (BitVec.ofNat 16 w)] else none

/-! ## NOP and START -/

/-- R68: "Flags written: none. In particular `err` is neither set nor cleared." NOP, the word 0x0000, completes in
every state and changes nothing; the words 0x0001..0x0FFF are illegal, not NOPs. -/
def Obligations.NopChangesNothing : Prop :=
  (∀ s : State, exec .nop s = .next s) ∧ encode .nop = .command 0x0000 ∧
    ∀ w : Word, 1 ≤ w.toNat → w.toNat ≤ 0x0FFF → decodeCommand w = .error .reservedNop

/-- R69: "START m, accepted: begin an attempt." In IDLE or DONE it completes and writes all eight elements; then
STATUS reads 0x000D for ModelA and 0x001D for ModelB, HUM_DECI and TEMP_DECI read 0, and `done` is low. -/
def Obligations.StartBeginsAttempt : Prop :=
  ∀ (m : SensorModel) (s : State), s.regs.st = .idle ∨ s.regs.st = .done →
    let t : State := { s with
      regs := { st := .busy, res := .none, model := m, cnt := 0, acc := 0x0000, rh := 0x0000, rt := 0x0000,
                err := false } }
    exec (.start m) s = .next t ∧ encode (.start m) = .command (0x1000 ||| modelBit m) ∧
      t.readPort 0 = (match m with | .modelA => 0x000D | .modelB => 0x001D) ∧ t.readPort 5 = 0 ∧ t.readPort 6 = 0 ∧
      t.done = false

/-- R70: "START(s, m) when s.st == BUSY = s with err <- 1": the attempt in flight continues unchanged, STATUS shows
CMD_ERR, and a move that leaves BUSY without a SAMPLE is a reset. -/
def Obligations.StartRefusedWhileBusy : Prop :=
  (∀ (m : SensorModel) (s : State), s.regs.st = .busy →
      let t : State := { s with regs := { s.regs with err := true } }
      exec (.start m) s = .next t ∧ encode (.start m) = .command (0x1000 ||| modelBit m) ∧
        (t.readPort 0).getLsbD 7 = true) ∧
    ∀ (mv : HostMove) (s t : State), s.regs.st = .busy → runMove mv s = .next t → t.regs.st ≠ .busy →
      isResetMove mv = true ∨ (isSampleMove mv = true ∧ t.regs.st = .done)

/-- "DONE has exactly three exits" and "IDLE is reached only by reset" (40_control.md, after its START rules), over
every move of the host. Derived: the spec gives it as derived. -/
def Obligations.DoneIsLeftByStartOrResetOnly : Prop :=
  (∀ (mv : HostMove) (s t : State), s.regs.st = .done → runMove mv s = .next t →
      (isResetMove mv = true ∧ t.regs.st = .idle) ∨ (isStartMove mv = true ∧ t.regs.st = .busy) ∨
        (isResetMove mv = false ∧ isStartMove mv = false ∧
          (t.regs = s.regs ∨ t.regs = { s.regs with err := true }))) ∧
    ∀ (mv : HostMove) (s t : State), runMove mv s = .next t → t.regs.st = .idle →
      isResetMove mv = true ∨ s.regs.st = .idle

/-- "Each accepted START writes it, and nothing else writes it during an attempt": while BUSY no move but a reset
changes `model`. Derived from 10_state.md section 1, the rule of `model`. -/
def Obligations.ModelIsFixedDuringAttempt : Prop :=
  ∀ (mv : HostMove) (s t : State), s.regs.st = .busy → isResetMove mv = false → runMove mv s = .next t →
    t.regs.model = s.regs.model

/-! ## SAMPLE, one observation -/

/-- R74: "If `st ≠ BUSY`, the SAMPLE sets `err <- 1` and changes nothing else." -/
def Obligations.SampleRefusedOutsideAttempt : Prop :=
  ∀ (t : Bool) (d : Byte) (s : State), s.regs.st ≠ .busy →
    exec (.sample t d) s = .next { s with regs := { s.regs with err := true } }

/-- R76: "In BUSY, an observation is timed out when `t = 1` or `d > TIMEOUT_US`." It ends the attempt and keeps `cnt`,
`acc`, `rh` and `rt`; STATUS.CNT still shows i + 3. The comparison is strict: `d = TIMEOUT_US` without the flag is
counted. -/
def Obligations.SampleTimeoutEndsAttempt : Prop :=
  (∀ (t : Bool) (d : Byte) (s : State), s.regs.st = .busy → t = true ∨ s.params.timeoutUs.toNat < d.toNat →
      ∃ r : State, exec (.sample t d) s = .next r ∧
        r = { s with regs := { s.regs with st := .done, res := .timeout } } ∧
        ((r.readPort 0).extractLsb' 8 7).toNat = s.regs.cnt.toNat) ∧
    ∀ s : State, s.regs.st = .busy →
      ∃ r : Regs, exec (.sample false s.params.timeoutUs) s = .next { s with regs := r } ∧ r.cnt = s.regs.cnt + 1

/-- 41_sample.md section 1: at a handshake index and at every even index, a SAMPLE that is not timed out completes and
only advances `cnt`; `d` has no other effect. Derived: the spec gives it as derived. -/
def Obligations.SampleAtEvenOrHandshakeIndexOnlyAdvances : Prop :=
  ∀ (d : Byte) (s : State), s.regs.st = .busy → d.toNat ≤ s.params.timeoutUs.toNat →
    ((s.regs.cnt.toNat : Int) - 3 < 0 ∨ ((s.regs.cnt.toNat : Int) - 3) % 2 = 0) →
    exec (.sample false d) s = .next { s with regs := { s.regs with cnt := s.regs.cnt + 1 } }

/-- R77 and R78: "the accumulator takes one data bit at its low end", at every odd index i ≥ 0 that is not timed out,
and "`b = 1` if `d > BIT_THRESHOLD_US`, else `b = 0`". At index 63 the shifted value is what the snapshot takes. The
odd indices 1, 3, …, 79 are exactly 40. -/
def Obligations.SampleShiftsInTheDataBit : Prop :=
  (∀ (d : Byte) (s : State), s.regs.st = .busy → d.toNat ≤ s.params.timeoutUs.toNat →
      0 ≤ (s.regs.cnt.toNat : Int) - 3 → ((s.regs.cnt.toNat : Int) - 3) % 2 = 1 →
      ∃ r : Regs, exec (.sample false d) s = .next { s with regs := r } ∧
        (if s.regs.cnt = 66 then r.rt else r.acc) =
          (s.regs.acc <<< 1) ||| (if s.params.bitThresholdUs.toNat < d.toNat then 1 else 0)) ∧
    ((List.range 80).filter (fun i => i % 2 = 1)).length = 40

/-- 41_sample.md section 3, the sequencing table, third row: at an odd index that is neither 31 nor 63 nor 79, a
SAMPLE that is not timed out completes, shifts in its bit, advances, and changes nothing else. Derived. -/
def Obligations.SampleAtPlainOddIndex : Prop :=
  ∀ (d : Byte) (s : State), s.regs.st = .busy → d.toNat ≤ s.params.timeoutUs.toNat →
    0 ≤ (s.regs.cnt.toNat : Int) - 3 → ((s.regs.cnt.toNat : Int) - 3) % 2 = 1 →
    s.regs.cnt ≠ 34 → s.regs.cnt ≠ 66 → s.regs.cnt ≠ 82 →
    exec (.sample false d) s = .next { s with
      regs := { s.regs with
        acc := (s.regs.acc <<< 1) ||| (if s.params.bitThresholdUs.toNat < d.toNat then 1 else 0)
        cnt := s.regs.cnt + 1 } }

/-- R80: "When the observation at `i = 31` is not timed out, `rh` gets the value of `acc` after this observation's
shift-in"; the accumulator is not cleared. Derived: where the sixteen bits come from is said by the statements about
whole attempts. -/
def Obligations.SampleTakesHumiditySnapshot : Prop :=
  ∀ (d : Byte) (s : State), s.regs.st = .busy → d.toNat ≤ s.params.timeoutUs.toNat → s.regs.cnt = 34 →
    let a : Word := (s.regs.acc <<< 1) ||| (if s.params.bitThresholdUs.toNat < d.toNat then 1 else 0)
    exec (.sample false d) s = .next { s with regs := { s.regs with acc := a, rh := a, cnt := 35 } }

/-- R81: "When the observation at `i = 63` is not timed out, `rt` gets the value of `acc` after this observation's
shift-in", and then `acc <- 0x0000`. Derived: where the sixteen bits come from is said by the statements about whole
attempts. -/
def Obligations.SampleTakesTemperatureSnapshot : Prop :=
  ∀ (d : Byte) (s : State), s.regs.st = .busy → d.toNat ≤ s.params.timeoutUs.toNat → s.regs.cnt = 66 →
    let a : Word := (s.regs.acc <<< 1) ||| (if s.params.bitThresholdUs.toNat < d.toNat then 1 else 0)
    exec (.sample false d) s = .next { s with regs := { s.regs with acc := 0x0000, rt := a, cnt := 67 } }

/-- R83: "When the observation at `i = 79` is not timed out, it is the 83rd, and after its shift-in and advance
(`cnt = 83`) the attempt ends", OK when the byte sum of the two snapshots modulo 256 is acc[7:0], else CHECKSUM. In
a state that meets the invariant acc[15:8] is 0 there. -/
def Obligations.LastSampleChecksTheSum : Prop :=
  ∀ (d : Byte) (s : State), s.regs.st = .busy → d.toNat ≤ s.params.timeoutUs.toNat → s.regs.cnt = 82 →
    let a : Word := (s.regs.acc <<< 1) ||| (if s.params.bitThresholdUs.toNat < d.toNat then 1 else 0)
    let sum : Nat := (s.regs.rh.toNat % 256 + s.regs.rh.toNat / 256 + s.regs.rt.toNat % 256 +
      s.regs.rt.toNat / 256) % 256
    exec (.sample false d) s = .next { s with
      regs := { s.regs with
        acc := a, cnt := 83, st := .done, res := if sum = a.toNat % 256 then .ok else .checksum } } ∧
      (s.Inv → a.toNat / 256 = 0)

/-- R82: "Every non-timed-out observation in BUSY ends with `cnt <- cnt + 1`. No other command changes `cnt`, except
START, which writes 0." -/
def Obligations.OnlySamplesAdvanceTheCounter : Prop :=
  ∀ (w : Word) (s t : State), runCommand w s = .next t →
    let counted : Prop := ∃ d : Byte, decodeCommand w = .ok (.sample false d) ∧ s.regs.st = .busy ∧
      d.toNat ≤ s.params.timeoutUs.toNat
    let started : Prop := (∃ m, decodeCommand w = .ok (.start m)) ∧ s.regs.st ≠ .busy
    (counted → t.regs.cnt = s.regs.cnt + 1) ∧ (started → t.regs.cnt = 0) ∧
      (¬counted → ¬started → t.regs.cnt = s.regs.cnt)

/-- The frame of SAMPLE (10_state.md section 2, 41_sample.md section 2): it never writes `model`; `err` only when
refused; `rh` only at index 31, `rt` only at 63, `acc` only at an odd index from 1 on, `st` and `res` only on a
timeout or at 79; the parameters, the host's moves and its readings never. VALID changes only at index 79, in a state
that meets the invariant. Derived: the first of these rules is one the spec derives, and the fields `moves`
and `taken` are the model's own (entries 1 and 3). -/
def Obligations.SampleFrame : Prop :=
  ∀ (f : Bool) (d : Byte) (s t : State), exec (.sample f d) s = .next t →
    t.params = s.params ∧ t.moves = s.moves ∧ t.taken = s.taken ∧ t.regs.model = s.regs.model ∧
      (s.regs.st = .busy → t.regs.err = s.regs.err) ∧
      (t.regs.rh ≠ s.regs.rh → s.regs.cnt = 34) ∧ (t.regs.rt ≠ s.regs.rt → s.regs.cnt = 66) ∧
      (t.regs.acc ≠ s.regs.acc → 4 ≤ s.regs.cnt.toNat ∧ s.regs.cnt.toNat % 2 = 0) ∧
      (t.regs.st ≠ s.regs.st ∨ t.regs.res ≠ s.regs.res →
        s.regs.cnt = 82 ∨ f = true ∨ s.params.timeoutUs.toNat < d.toNat) ∧
      (s.Inv → t.regs.valid ≠ s.regs.valid → s.regs.cnt = 82 ∧ t.regs.res = .ok)

/-! ## Whole attempts -/

/-- 20_memory.md section 3 and 41_sample.md section 3 (the wire bit order and the completion properties): START in
IDLE or DONE and then 83 observations in index order, none timed out, end in DONE. The data bit at odd index i is bit
15 − (i − 1)/2 of `rh` for i ≤ 31, bit 15 − (i − 33)/2 of `rt` for i ≤ 63, and bit 7 − (i − 65)/2 of the checksum
byte after that; acc[15:8] is 0; the result is OK exactly when the byte sum matches. Derived; that commands come from
the list of host moves is entry 1. -/
def Obligations.AttemptAssemblesPayload : Prop :=
  ∀ (s : State) (m : SensorModel) (ds : List Byte) (rest : List HostMove), s.regs.st ≠ .busy → ds.length = 83 →
    OnTime s.params ds →
    ∃ t : State,
      Host.Core.run Sys2Proof.core 84 (s.withMoves (startMove m :: sampleMoves ds ++ rest)) = .next t ∧
        t.moves = rest ∧ t.params = s.params ∧ t.taken = s.taken ∧
        t.regs.st = .done ∧ t.regs.model = m ∧ t.regs.cnt = 83 ∧ t.regs.err = false ∧
        (∀ i : Nat, i % 2 = 1 → i ≤ 31 → t.regs.rh.getLsbD (15 - (i - 1) / 2) = bitAtIndex s.params ds i) ∧
        (∀ i : Nat, i % 2 = 1 → 33 ≤ i → i ≤ 63 →
          t.regs.rt.getLsbD (15 - (i - 33) / 2) = bitAtIndex s.params ds i) ∧
        (∀ i : Nat, i % 2 = 1 → 65 ≤ i → i ≤ 79 →
          t.regs.acc.getLsbD (7 - (i - 65) / 2) = bitAtIndex s.params ds i) ∧
        t.regs.acc.toNat < 256 ∧
        t.regs.res = if checksum8 t.regs.rh t.regs.rt = lowByte t.regs.acc then .ok else .checksum

/-- The pseudo-instruction `frame H, T, C` of 30_encoding.md section 5 after a START delivers exactly the payload it
names, at every pair of parameters that reads its nominal durations as it means them (26 µs a 0, 70 µs a 1, 80 µs no
timeout): RAW_HUM, RAW_TEMP and ACC read H, T and C, the result is OK exactly when C is the byte sum, and HUM_DECI and
TEMP_DECI are then the decoded values of the configured model. Derived; entry 1 as above. -/
def Obligations.FrameDeliversItsPayload : Prop :=
  ∀ (s : State) (m : SensorModel) (h t : Word) (c : Byte) (rest : List HostMove), s.regs.st ≠ .busy →
    80 ≤ s.params.timeoutUs.toNat → 26 ≤ s.params.bitThresholdUs.toNat → s.params.bitThresholdUs.toNat < 70 →
    ∃ r : State,
      Host.Core.run Sys2Proof.core 84 (s.withMoves (startMove m :: presented (frameWords h t c) ++ rest)) = .next r ∧
        r.moves = rest ∧ r.readPort 1 = h ∧ r.readPort 2 = t ∧ r.readPort 3 = BitVec.setWidth 16 c ∧
        r.regs.st = .done ∧ r.regs.cnt = 83 ∧ r.regs.err = false ∧ r.regs.model = m ∧
        r.regs.res = (if checksum8 h t = c then .ok else .checksum) ∧
        r.readPort 5 = (if checksum8 h t = c then BitVec.ofNat 16 (hum m h) else 0) ∧
        r.readPort 6 = (if checksum8 h t = c then temp m t else 0)

/-- 42_payload_decode.md section 6, "Checksum detection law": an attempt ends OK; a second attempt whose payload
differs from the first in exactly one of its five bytes ends CHECKSUM. Both are 83 observations that are not timed
out; the host may vary the durations that carry no bit. Derived; entry 1 as above. -/
def Obligations.SingleByteCorruptionIsCaught : Prop :=
  ∀ (s t s' : State) (m : SensorModel) (ds es : List Byte) (k : Nat), s.regs.st ≠ .busy → ds.length = 83 →
    es.length = 83 → OnTime s.params ds → OnTime s.params es → k < 5 →
    (∀ j < 5, j ≠ k → wireByte s.params es j = wireByte s.params ds j) →
    wireByte s.params es k ≠ wireByte s.params ds k →
    Host.Core.run Sys2Proof.core 84 (s.withMoves (startMove m :: sampleMoves ds)) = .next t → t.regs.res = .ok →
    Host.Core.run Sys2Proof.core 84 (s.withMoves (startMove m :: sampleMoves es)) = .next s' →
    s'.regs.res = .checksum

/-- The timeout at each of the 83 positions (41_sample.md section 1 and 60_exceptions.md section 3; W5 of
95_test_vectors.md): START, then k ≤ 82 observations that are not timed out, then one that is, end in DONE with
TIMEOUT and CNT = k, so the failing index is k − 3; a snapshot not reached reads 0 and no checksum is compared.
Derived; entry 1 as above. -/
def Obligations.TimeoutAtEveryPosition : Prop :=
  ∀ (s : State) (m : SensorModel) (ds : List Byte) (f : Bool) (d : Byte) (rest : List HostMove),
    s.regs.st ≠ .busy → ds.length ≤ 82 → OnTime s.params ds → f = true ∨ s.params.timeoutUs.toNat < d.toNat →
    ∃ t : State,
      Host.Core.run Sys2Proof.core (ds.length + 2)
          (s.withMoves (startMove m :: sampleMoves ds ++ sampleMove f d :: rest)) = .next t ∧
        t.moves = rest ∧ t.regs.st = .done ∧ t.regs.res = .timeout ∧ t.regs.cnt.toNat = ds.length ∧
        t.regs.model = m ∧ t.regs.err = false ∧ (ds.length ≤ 34 → t.regs.rh = 0) ∧
        (ds.length ≤ 66 → t.regs.rt = 0) ∧ t.readPort 5 = 0 ∧ t.readPort 6 = 0

/-- 41_sample.md section 1, "Durations at the other indices are ignored except for the timeout": two lists of
durations, none timed out, that agree at every odd index i ≥ 0 (positions 4, 6, …) take one state to the same state,
whatever the handshake and low-phase durations are. Derived; entry 1 as above. -/
def Obligations.OtherDurationsDoNotMatter : Prop :=
  ∀ (s : State) (ds es : List Byte) (rest : List HostMove), ds.length = es.length → OnTime s.params ds →
    OnTime s.params es → s.regs.st = .busy →
    (∀ j : Nat, 4 ≤ s.regs.cnt.toNat + j → (s.regs.cnt.toNat + j) % 2 = 0 → ds.getD j 0 = es.getD j 0) →
    s.regs.cnt.toNat + ds.length ≤ 83 →
    Host.Core.run Sys2Proof.core ds.length (s.withMoves (sampleMoves ds ++ rest)) =
      Host.Core.run Sys2Proof.core ds.length (s.withMoves (sampleMoves es ++ rest))

/-- 70_reset_and_hazards.md section 4, "The validator then leaves BUSY after at most 83 SAMPLEs": whatever the host
does between them, a list of moves that holds as many SAMPLEs as the attempt lacks (83 − cnt) takes a BUSY state that
meets the invariant out of BUSY at some point. Derived; entry 1 as above. -/
def Obligations.AttemptEndsWithinItsSamples : Prop :=
  ∀ (s : State) (l : List HostMove), s.Inv → s.regs.st = .busy → 83 - s.regs.cnt.toNat ≤ l.countP isSampleMove →
    ∃ (n : Nat) (t : State), n ≤ l.length ∧ Host.Core.run Sys2Proof.core n (s.withMoves l) = .next t ∧
      t.regs.st ≠ .busy

/-- 70_reset_and_hazards.md sections 2 and 4: a host that keeps its duties (one reset first, START between attempts,
SAMPLEs only inside one, no illegal word) is never refused, and its view of the attempt is the validator's. From any
power-on state at all, since the first command comes after a reset: that the power-on state is any State is entry 7.
Derived; the checker of the duties is the model's reading of the contract (entry 14), the list of moves is entry 1. -/
def Obligations.DutifulHostIsNeverRefused : Prop :=
  ∀ (s : State) (l : List HostMove) (ph : HostPhase), dutifulPhase s.params .powerUp l = some ph → ph ≠ .powerUp →
    ∃ t : State, Host.Core.run Sys2Proof.core l.length (s.withMoves l) = .next t ∧ t.regs.err = false ∧
      (∀ k, ph = .attempt k → t.regs.st = .busy ∧ t.regs.cnt.toNat = k ∧ k ≤ 82) ∧
      (ph = .ready → t.regs.st ≠ .busy)

/-- 70_reset_and_hazards.md section 5, "End of an attempt": in DONE, any moves without a START and without a reset keep
`st`, `res`, `model`, `cnt`, `acc`, `rh` and `rt`, and every register but STATUS reads as before. Derived; entry 1
as above. -/
def Obligations.ResultIsFinalUntilStart : Prop :=
  ∀ (s : State) (l : List HostMove), s.regs.st = .done →
    (∀ mv ∈ l, isStartMove mv = false ∧ isResetMove mv = false) →
    ∃ t : State, Host.Core.run Sys2Proof.core l.length (s.withMoves l) = .next t ∧
      t.regs.st = .done ∧ t.regs.res = s.regs.res ∧ t.regs.model = s.regs.model ∧ t.regs.cnt = s.regs.cnt ∧
      t.regs.acc = s.regs.acc ∧ t.regs.rh = s.regs.rh ∧ t.regs.rt = s.regs.rt ∧
      ∀ a : ReadAddr, a ≠ 0 → t.readPort a = s.readPort a

/-! ## The read port

That a read adds its value to the list `taken` is the model's way to show what the host takes (entry 3); the value is
the spec's. -/

/-- R102: "RAW_HUM (address 1) reads `rh`. RAW_TEMP (address 2) reads `rt`. ACC (address 3) reads `acc`. None of them
is gated by VALID." The three reads complete in every state and change nothing of the validator. Derived: what the
registers hold after an attempt is said by the statements about whole attempts, and the record of readings `taken` is
the model's choice (entry 3). -/
def Obligations.RawRegistersReadUngated : Prop :=
  ∀ s : State, exec .rdRawHum s = .next { s with taken := ⟨1, s.regs.rh⟩ :: s.taken } ∧
    exec .rdRawTemp s = .next { s with taken := ⟨2, s.regs.rt⟩ :: s.taken } ∧
    exec .rdAcc s = .next { s with taken := ⟨3, s.regs.acc⟩ :: s.taken }

/-- R100, the layout of STATUS: each field of the table and the reserved bit 15, 16 bits in all. The read completes in
every state and changes nothing of the validator. Derived: the fields are the spec's, the record of readings `taken` is
the model's choice (entry 3). -/
def Obligations.StatusHasItsFields : Prop :=
  ∀ s : State, ∃ v : Word, exec .rdStatus s = .next { s with taken := ⟨0, v⟩ :: s.taken } ∧
    (v.extractLsb' 0 2).toNat = (match s.regs.st with | .idle => 0 | .busy => 1 | .done => 2) ∧
    (v.extractLsb' 2 2).toNat = (match s.regs.res with | .ok => 0 | .timeout => 1 | .checksum => 2 | .none => 3) ∧
    (v.getLsbD 4 = true ↔ s.regs.model = .modelB) ∧ (v.getLsbD 5 = true ↔ s.regs.res = .ok) ∧
    (v.getLsbD 6 = true ↔ s.regs.res = .ok ∧
      (match s.regs.model with | .modelA => s.regs.rt.getLsbD 7 | .modelB => s.regs.rt.getLsbD 15) = true) ∧
    v.getLsbD 7 = s.regs.err ∧ v.extractLsb' 8 7 = s.regs.cnt ∧ v.getLsbD 15 = false

/-- R92: "`checksum8(h, t) = (h[7:0] + h[15:8] + t[7:0] + t[15:8]) mod 256`", and SUM reads it, zero-extended, in every
state; a snapshot not yet taken counts as 0. The read changes nothing of the validator. Derived: the value is the spec's,
the record of readings `taken` is the model's choice (entry 3). -/
def Obligations.SumReadsTheByteSum : Prop :=
  (∀ h t : Word, (checksum8 h t).toNat = (h.toNat % 256 + h.toNat / 256 + t.toNat % 256 + t.toNat / 256) % 256) ∧
    ∀ s : State, ∃ v : Word, exec .rdSum s = .next { s with taken := ⟨4, v⟩ :: s.taken } ∧
      v.toNat = (checksum8 s.regs.rh s.regs.rt).toNat ∧
      (s.Inv → s.regs.cnt.toNat ≤ 34 → v = 0) ∧
      (s.Inv → s.regs.cnt.toNat ≤ 66 → v.toNat = (s.regs.rh.toNat % 256 + s.regs.rh.toNat / 256) % 256)

/-- R94 and R96: "`hum = 10 × rh[15:8] + rh[7:0]`, an unsigned integer in 0..2805" for ModelA, without a clamp, and
"`hum = rh`, the full 16-bit unsigned value, 0..65535 tenths" for ModelB; HUM_DECI reads it when the result is OK, and
0 otherwise. The read completes in every state and changes nothing of the validator. Derived: the value is the spec's,
the record of readings `taken` is the model's choice (entry 3). -/
def Obligations.HumDeciReadsTheHumidity : Prop :=
  (∀ s : State, ∃ v : Word, exec .rdHumDeci s = .next { s with taken := ⟨5, v⟩ :: s.taken } ∧
      v.toNat = if s.regs.res = .ok then hum s.regs.model s.regs.rh else 0) ∧
    (∀ rh : Word, hum .modelA rh = 10 * (rh.toNat / 256) + rh.toNat % 256 ∧ hum .modelA rh ≤ 2805) ∧
    ∀ rh : Word, hum .modelB rh = rh.toNat

/-- R95 and R97: the sign-magnitude temperature of either model as TEMP_DECI, read as a two's complement number: the
sign is bit 7 of `rt` and the magnitude 10 × rt[15:8] + rt[6:0], at most 2677, for ModelA, bit 15 and rt[14:0], at most
32767, for ModelB. 0 when the result is not OK. The read completes in every state and changes nothing of the
validator. Derived: the value is the spec's, the record of readings `taken` is the model's choice (entry 3). -/
def Obligations.TempDeciReadsTheTemperature : Prop :=
  (∀ rt : Word, tmag .modelA rt = 10 * (rt.toNat / 256) + rt.toNat % 128 ∧ tmag .modelA rt ≤ 2677 ∧
      tmag .modelB rt = rt.toNat % 32768 ∧ tmag .modelB rt ≤ 32767) ∧
    ∀ s : State, ∃ v : Word, exec .rdTempDeci s = .next { s with taken := ⟨6, v⟩ :: s.taken } ∧
    v.toInt =
      if s.regs.res = .ok then
        match s.regs.model with
        | .modelA =>
          let mag : Int := 10 * (s.regs.rt.toNat / 256) + s.regs.rt.toNat % 128
          if s.regs.rt.getLsbD 7 then -mag else mag
        | .modelB =>
          let mag : Int := s.regs.rt.toNat % 32768
          if s.regs.rt.getLsbD 15 then -mag else mag
      else 0

/-- R99: "`HUM_DECI = VALID ? hum(model, rh) : 0x0000` and `TEMP_DECI = VALID ? temp(model, rt) : 0x0000`"; and after
an accepted START both read 0. -/
def Obligations.ReadingsAreGatedByValid : Prop :=
  (∀ s : State, s.readPort 5 = (if s.regs.valid then BitVec.ofNat 16 (hum s.regs.model s.regs.rh) else 0x0000) ∧
      s.readPort 6 = (if s.regs.valid then temp s.regs.model s.regs.rt else 0x0000)) ∧
    ∀ (m : SensorModel) (s t : State), s.regs.st ≠ .busy → exec (.start m) s = .next t →
      t.readPort 5 = 0 ∧ t.readPort 6 = 0

/-- R101: "PARAMS (address 7) reads `{TIMEOUT_US[7:0], BIT_THRESHOLD_US[7:0]}`, with TIMEOUT_US in bits [15:8]", 0x5A1E
at the defaults, and no step changes it. The read completes in every state and changes nothing of the validator.
Derived: the value is the spec's, the record of readings `taken` is the model's choice (entry 3). -/
def Obligations.ParamsReadsTheThresholds : Prop :=
  (∀ s : State, ∃ v : Word, exec .rdParams s = .next { s with taken := ⟨7, v⟩ :: s.taken } ∧
      v.toNat = 256 * s.params.timeoutUs.toNat + s.params.bitThresholdUs.toNat) ∧
    (∀ s : State, s.params = ⟨90, 30⟩ → s.readPort 7 = 0x5A1E) ∧
    ∀ s t : State, step s = .next t → t.readPort 7 = s.readPort 7

/-- R98: "TEMP_NEG is the received sign bit when VALID", and it is 1 even when the magnitude is 0, where TEMP_DECI
reads 0. -/
def Obligations.TempNegIsTheReceivedSign : Prop :=
  (∀ s : State, (s.readPort 0).getLsbD 6 = true ↔ s.regs.res = .ok ∧
      (match s.regs.model with | .modelA => s.regs.rt.getLsbD 7 | .modelB => s.regs.rt.getLsbD 15) = true) ∧
    ∀ s : State, s.regs.res = .ok → tmag s.regs.model s.regs.rt = 0 → tneg s.regs.model s.regs.rt = true →
      (s.readPort 0).getLsbD 6 = true ∧ s.readPort 6 = 0

/-- 42_payload_decode.md section 6, the ranges of the outputs: HUM_DECI at most 2805 and TEMP_DECI in −2677..2677 for
ModelA, TEMP_DECI in −32767..32767 for ModelB, and TEMP_DECI never 0x8000, in every state. Derived: the spec gives it
as derived. -/
def Obligations.DecodedValuesStayInRange : Prop :=
  ∀ s : State, s.readPort 6 ≠ 0x8000 ∧ -32767 ≤ (s.readPort 6).toInt ∧ (s.readPort 6).toInt ≤ 32767 ∧
    (s.regs.model = .modelA →
      (s.readPort 5).toNat ≤ 2805 ∧ -2677 ≤ (s.readPort 6).toInt ∧ (s.readPort 6).toInt ≤ 2677)

/-- The source's formulas, in exact rationals: with an OK result, HUM_DECI/10 and TEMP_DECI/10 are the humidity and the
temperature of the quoted ModelA and ModelB rules. Derived from 42_payload_decode.md sections 1 and 4. -/
def Obligations.DecodedValuesAreTheSourceFormulas : Prop :=
  ∀ s : State, s.regs.res = .ok →
    match s.regs.model with
    | .modelA =>
      humidityPercent (s.readPort 5) =
          ((highByte s.regs.rh).toNat : Rat) + (1 / 10) * ((lowByte s.regs.rh).toNat : Rat) ∧
        temperatureCelsius (s.readPort 6) =
          (if s.regs.rt.getLsbD 7 then -1 else 1) *
            (((highByte s.regs.rt).toNat : Rat) + (1 / 10) * (((lowByte s.regs.rt).toNat % 128 : Nat) : Rat))
    | .modelB =>
      humidityPercent (s.readPort 5) = (s.regs.rh.toNat : Rat) * (1 / 10) ∧
        temperatureCelsius (s.readPort 6) =
          (if s.regs.rt.getLsbD 15 then -1 else 1) * ((s.regs.rt.toNat % 32768 : Nat) : Rat) * (1 / 10)

/-- R30: "The read port exposes every state element: `st`, `res`, `model`, `cnt` and `err` through STATUS, and `acc`,
`rh` and `rt` through their own registers." Two states that read alike at an address hold the same elements that it
exposes, and two that read alike at all eight hold the same eight elements and the same parameters. -/
def Obligations.ReadPortExposesEveryElement : Prop :=
  ∀ s t : State,
    (s.readPort 0 = t.readPort 0 → s.regs.st = t.regs.st ∧ s.regs.res = t.regs.res ∧
        s.regs.model = t.regs.model ∧ s.regs.cnt = t.regs.cnt ∧ s.regs.err = t.regs.err) ∧
      (s.readPort 1 = t.readPort 1 → s.regs.rh = t.regs.rh) ∧
      (s.readPort 2 = t.readPort 2 → s.regs.rt = t.regs.rt) ∧
      (s.readPort 3 = t.readPort 3 → s.regs.acc = t.regs.acc) ∧
      ((∀ a : ReadAddr, s.readPort a = t.readPort a) → s.regs = t.regs ∧ s.params = t.params)

/-- R38: "A read of any address, in any state, changes no state element." The host takes `R[a]`, and the next read of
any address finds the same value as this state shows; the value does not depend on the host.
Derived: that no element changes is the spec's, the record of readings `taken` is the model's choice (entry 3). -/
def Obligations.ReadsChangeNothing : Prop :=
  (∀ (a : ReadAddr) (s : State), runMove (.read a) s = .next { s with taken := ⟨a, s.readPort a⟩ :: s.taken }) ∧
    ∀ (b : ReadAddr) (s t : State), t.regs = s.regs → t.params = s.params → t.readPort b = s.readPort b

/-- 70_reset_and_hazards.md section 3, "A read in cycle t itself sees the state before that command": a read made
before a command takes the old value, a read made after it the new one. Derived; the order of
the two moves is entry 6, the record of readings `taken` entry 3, the list of moves entry 1. -/
def Obligations.ReadSeesEarlierCommandsOnly : Prop :=
  ∀ (a : ReadAddr) (w : Word) (s t : State) (rest : List HostMove), runCommand w (s.withMoves rest) = .next t →
    (∃ u, Host.Core.run Sys2Proof.core 2 (s.withMoves (.read a :: .edge false true w :: rest)) = .next u ∧
        u.regs = t.regs ∧ u.taken = ⟨a, s.readPort a⟩ :: s.taken) ∧
      ∃ u, Host.Core.run Sys2Proof.core 2 (s.withMoves (.edge false true w :: .read a :: rest)) = .next u ∧
        u.regs = t.regs ∧ u.taken = ⟨a, t.readPort a⟩ :: s.taken

/-! ## Results, refusals, outputs -/

/-- R106: "Every state has a defined successor for every command": no instruction, no command word and no step ends in
a fault or a refusal of the model. Derived: R106 also says how an attempt and a command fail. -/
def Obligations.EverythingHasASuccessor : Prop :=
  (∀ (i : Instr) (s : State), ∃ t, exec i s = .next t) ∧ (∀ (w : Word) (s : State), ∃ t, runCommand w s = .next t) ∧
    ∀ s : State, ∃ t, step s = .next t

/-- R110: "A command is refused exactly in these three cases": an illegal word, START in BUSY, SAMPLE outside BUSY.
A refused command sets `err` and does nothing else; a command that is not refused does not set it; and it stays set
until the next accepted START or reset. -/
def Obligations.RefusedExactlyInThreeCases : Prop :=
  (∀ (w : Word) (s : State),
    let cause : Prop := (∃ k, decodeCommand w = .error k) ∨
      ((∃ m, decodeCommand w = .ok (.start m)) ∧ s.regs.st = .busy) ∨
      ((∃ f d, decodeCommand w = .ok (.sample f d)) ∧ s.regs.st ≠ .busy)
    (cause → runCommand w s = .next { s with regs := { s.regs with err := true } }) ∧
      (¬cause → ∃ t, runCommand w s = .next t ∧ (t.regs.err = true → s.regs.err = true))) ∧
    ∀ (mv : HostMove) (s t : State), runMove mv s = .next t → s.regs.err = true → t.regs.err = true ∨
      isResetMove mv = true ∨ (isStartMove mv = true ∧ s.regs.st ≠ .busy)

/-- R21: "Every refused command sets it (60_exceptions.md rule R110). An accepted START and reset clear it, and nothing
else does." -/
def Obligations.ErrIsSticky : Prop :=
  ∀ (mv : HostMove) (s t : State), runMove mv s = .next t →
    (s.regs.err = true → t.regs.err = false →
        isResetMove mv = true ∨ (isStartMove mv = true ∧ s.regs.st ≠ .busy)) ∧
      (isResetMove mv = true ∨ (isStartMove mv = true ∧ s.regs.st ≠ .busy) → t.regs.err = false) ∧
      (∀ w, mv = .edge false true w → (∃ k, decodeCommand w = .error k) ∨
          (isStartMove mv = true ∧ s.regs.st = .busy) ∨ (isSampleMove mv = true ∧ s.regs.st ≠ .busy) →
        t.regs.err = true)

/-- R27: "`done` is the combinational function `done = (st == DONE)` of the current state." It rises only by a SAMPLE
that ends an attempt, and falls only by an accepted START or a reset. -/
def Obligations.DoneFollowsTheAttempt : Prop :=
  (∀ s : State, s.done = true ↔ s.regs.st = .done) ∧
    ∀ (mv : HostMove) (s t : State), runMove mv s = .next t →
      (s.done = false → t.done = true → isSampleMove mv = true ∧ s.regs.st = .busy) ∧
        (s.done = true → (t.done = false ↔ isStartMove mv = true ∨ isResetMove mv = true))

/-! ## Reset, edges and steps -/

/-- R121: "At a rising edge of `clk` with `rst = 1`, every state element takes its value from the reset table", in
every state and whatever `cmd_valid` and `cmd` hold; a second edge gives the same state; and reset alone abandons an
attempt in flight. -/
def Obligations.ResetEdgeGivesTheResetState : Prop :=
  (∀ (v : Bool) (w : Word) (s : State), ∃ t : State, runEdge true v w s = .next t ∧
      t = { s with regs := { st := .idle, res := .none, model := .modelA, cnt := 0, acc := 0x0000, rh := 0x0000,
                             rt := 0x0000, err := false } } ∧
      ∀ (v' : Bool) (w' : Word), runEdge true v' w' t = .next t) ∧
    ∀ (mv : HostMove) (s t : State), s.regs.st = .busy → runMove mv s = .next t → isResetMove mv = false →
      t.regs.st = .busy ∨ isSampleMove mv = true ∧ t.regs.st = .done

/-- R31: "Every read-port register's reset value follows from this table": the state after reset holds the table, and
the eight registers read STATUS 0x000C, six zeros, and PARAMS. -/
def Obligations.ResetTableAndReadings : Prop :=
  State.reset.regs = { st := .idle, res := .none, model := .modelA, cnt := 0, acc := 0x0000, rh := 0x0000,
                       rt := 0x0000, err := false } ∧
    (∀ s : State, s.regs = State.reset.regs →
      s.readPort 0 = 0x000C ∧ s.readPort 1 = 0 ∧ s.readPort 2 = 0 ∧ s.readPort 3 = 0 ∧ s.readPort 4 = 0 ∧
        s.readPort 5 = 0 ∧ s.readPort 6 = 0 ∧ s.readPort 7 = s.params.timeoutUs ++ s.params.bitThresholdUs) ∧
    ∀ s : State, s.params = Config.defaultParams → s.readPort 7 = 0x5A1E

/-- R28: "At each rising edge of `clk`, exactly one of the following happens, in priority order": reset, a presented
command, nothing. -/
def Obligations.EdgePriority : Prop :=
  ∀ (v : Bool) (w : Word) (s : State),
    runEdge true v w s = .next { s with regs := Regs.reset } ∧ runEdge false true w s = runCommand w s ∧
      runEdge false false w s = .next s

/-- R64, the definition of Exec(s, w): the three patterns in order, and REFUSE for every other word; no word and no
state leaves it undefined. -/
def Obligations.ExecOfAWord : Prop :=
  ∀ (w : Word) (s : State),
    (∃ t, runCommand w s = .next t) ∧ runCommand w s =
      if w = 0x0000#16 then exec .nop s
      else if w &&& 0xFFFE#16 = 0x1000#16 then exec (.start (if w.getLsbD 0 then .modelB else .modelA)) s
      else if w &&& 0xFE00#16 = 0x2000#16 then exec (.sample (w.getLsbD 8) (w.extractLsb' 0 8)) s
      else .next { s with regs := { s.regs with err := true } }

/-- R32: "Parameters are not reset. TIMEOUT_US and BIT_THRESHOLD_US are constants of the elaborated block. PARAMS reads
them in every state": no step changes them, an edge with reset among them. -/
def Obligations.ParametersNeverChange : Prop :=
  (∀ s t : State, step s = .next t → t.params = s.params ∧ t.readPort 7 = s.readPort 7) ∧
    (∀ (v : Bool) (w : Word) (s t : State), runEdge true v w s = .next t → t.params = s.params) ∧
    ∀ s : State, s.readPort 7 = s.params.timeoutUs ++ s.params.bitThresholdUs

/-- R8: the ranges of the two parameters, the pair refused at elaboration, and the defaults. -/
def Obligations.ElaborationAcceptsTheRanges : Prop :=
  (∀ t b : Nat, (1 ≤ t ∧ t ≤ 255 ∧ b ≤ 254 ∧ b < t →
        ∃ p, Config.elaborate t b = some p ∧ p.timeoutUs.toNat = t ∧ p.bitThresholdUs.toNat = b ∧ Config.Legal p) ∧
      (¬(1 ≤ t ∧ t ≤ 255 ∧ b ≤ 254 ∧ b < t) → Config.elaborate t b = none)) ∧
    Config.elaborate 90 30 = some Config.defaultParams

/-- A step makes the host's next move: a port word that decodes runs its instruction on the state with the later moves
left, an illegal word is refused, and with no move left nothing changes. Derived: R28, R29, R64 and R67 say what each
move does, and that the moves stand in a list of State is the model's choice (entry 1). -/
def Obligations.StepRunsTheDecodedInstruction : Prop :=
  (∀ (pw : PortWord) (i : Instr) (s : State) (rest : List HostMove), s.moves = portMove pw :: rest →
      decode pw = .ok i → step s = exec i { s with moves := rest }) ∧
    (∀ (pw : PortWord) (k : IllegalWord) (s : State) (rest : List HostMove), s.moves = portMove pw :: rest →
      decode pw = .error k → step s = .next { s with moves := rest, regs := { s.regs with err := true } }) ∧
    ∀ s : State, s.moves = [] → step s = .next s

/-- The opcode-table word that `withFetchWord` places is what the next step runs, on the state it was placed in.
Derived: a convention of the model (entries 1 and 8). -/
def Obligations.PlacedWordRunsNext : Prop :=
  ∀ (nbits w : Nat) (i : Instr) (s : State), decodeTableWord nbits w = some i →
    step (s.withFetchWord nbits w) = exec i s

/-! ## The invariant -/

/-- The state after reset meets the invariant. Derived: that its thresholds are 90 and 30 is the model's choice (entry
4), that they are legal follows from 00_scope.md section 4, that its elements meet the six items from 10_state.md
sections 1 and 4, and the bound on `acc` is the model's own (entry 15). -/
def Obligations.ResetMeetsTheInvariant : Prop := State.reset.Inv

/-- Every step keeps the invariant: legal parameters (R8), the six items of 10_state.md's invariants, and the bound on
`acc` that makes them inductive (entry 15). Derived. -/
def Obligations.StepKeepsTheInvariant : Prop := ∀ s t : State, s.Inv → step s = .next t → t.Inv

/-- 10_state.md, "Every reachable state satisfies" its six invariants: from reset, at every legal elaboration and for
every list of host moves. Derived: the spec gives it as derived. -/
def Obligations.ReachableStatesMeetTheInvariants : Prop := ∀ s : State, Reachable s → s.regs.Invariants

/-! ## The sampler -/

/-- 70_reset_and_hazards.md section 4, "The validator's own test … makes `t` redundant whenever `d` is reported
truthfully and saturated", for a threshold below the saturation value; at TIMEOUT_US = 255 the flag is needed, since
a saturated 255 is not over it (entry 12). Derived. -/
def Obligations.TimeoutFlagIsRedundant : Prop :=
  ∀ (s : State) (wholeUs : Nat), s.params.timeoutUs.toNat < 255 →
    exec (samplerReport (decide (s.params.timeoutUs.toNat < wholeUs)) wholeUs) s =
      exec (samplerReport false wholeUs) s
end

