-- ==== Sys2Proof/Laws/Decode.lean ====
section
/-! SUPPORT. What the decoder answers, case by case: the lemmas later proofs cite instead of its masks. -/

namespace Sys2Proof

/-- The word of NOP decodes to it. -/
@[simp] theorem decodeCommand_nop : decodeCommand 0x0000#16 = .ok .nop := rfl

/-- The word of START m decodes to it. -/
@[simp] theorem decodeCommand_start (m : SensorModel) : decodeCommand (0x1000#16 ||| modelBit m) = .ok (.start m) := by
  cases m <;> rfl

/-- The word of SAMPLE t, d decodes to it. -/
@[simp] theorem decodeCommand_sample (t : Bool) (d : Byte) :
    decodeCommand (0x2000#16 ||| (BitVec.setWidth 16 (BitVec.ofBool t) <<< 8) ||| BitVec.setWidth 16 d) =
      .ok (.sample t d) := by
  revert d
  cases t <;> decide

/-- A command word decodes to a command or to a reason, never to a register read (R61). -/
theorem decodeCommand_cases (w : Word) :
    decodeCommand w = .ok .nop ∨ (∃ m, decodeCommand w = .ok (.start m)) ∨
      (∃ t d, decodeCommand w = .ok (.sample t d)) ∨ ∃ k, decodeCommand w = .error k := by
  unfold decodeCommand
  split
  · exact .inl rfl
  · split
    · exact .inr (.inl ⟨_, rfl⟩)
    · split
      · exact .inr (.inr (.inl ⟨_, _, rfl⟩))
      · exact .inr (.inr (.inr ⟨_, rfl⟩))

/-- The eight addresses, each with its read (R37). -/
theorem decodeReadAddr_cases (a : ReadAddr) :
    (a = 0 ∧ decodeReadAddr a = .rdStatus) ∨ (a = 1 ∧ decodeReadAddr a = .rdRawHum) ∨
      (a = 2 ∧ decodeReadAddr a = .rdRawTemp) ∨ (a = 3 ∧ decodeReadAddr a = .rdAcc) ∨
      (a = 4 ∧ decodeReadAddr a = .rdSum) ∨ (a = 5 ∧ decodeReadAddr a = .rdHumDeci) ∨
      (a = 6 ∧ decodeReadAddr a = .rdTempDeci) ∨ (a = 7 ∧ decodeReadAddr a = .rdParams) := by
  revert a
  decide

/-- A mask whose set bits are those from bit `k` on keeps the number's multiple of 2^k. -/
theorem toNat_and_highMask (w m : Word) (k : Nat) (h : ∀ i < 16, m.getLsbD i = decide (k ≤ i)) :
    (w &&& m).toNat = w.toNat / 2 ^ k * 2 ^ k := by
  have e : w &&& m = (w >>> k) <<< k := by
    apply BitVec.eq_of_getLsbD_eq
    intro i hi
    rw [BitVec.getLsbD_and, h i hi, BitVec.getLsbD_shiftLeft, BitVec.getLsbD_ushiftRight]
    by_cases hk : k ≤ i
    · have h2 : ¬i < k := by omega
      have h3 : k + (i - k) = i := by omega
      simp [hi, hk, h2, h3]
    · have h2 : i < k := by omega
      simp [hk, h2]
  have hw := w.isLt
  have hle : w.toNat / 2 ^ k * 2 ^ k ≤ w.toNat := Nat.div_mul_le_self _ _
  rw [e, BitVec.toNat_shiftLeft, BitVec.toNat_ushiftRight, Nat.shiftLeft_eq, Nat.shiftRight_eq_div_pow,
    Nat.mod_eq_of_lt (by omega)]

/-- The START pattern of R52 as a range of numbers. -/
theorem start_pattern_iff (w : Word) : w &&& 0xFFFE#16 = 0x1000#16 ↔ w.toNat / 2 = 0x800 := by
  have h := toNat_and_highMask w 0xFFFE#16 1 (by decide)
  rw [← BitVec.toNat_inj, h]
  show _ = 0x1000 ↔ _
  omega

/-- The SAMPLE pattern of R52 as a range of numbers. -/
theorem sample_pattern_iff (w : Word) : w &&& 0xFE00#16 = 0x2000#16 ↔ w.toNat / 512 = 0x10 := by
  have h := toNat_and_highMask w 0xFE00#16 9 (by decide)
  rw [← BitVec.toNat_inj, h]
  show _ = 0x2000 ↔ _
  omega

theorem opField_toNat (w : Word) : (opField w).toNat = w.toNat / 4096 := by
  have := w.isLt
  rw [opField, BitVec.extractLsb'_toNat, Nat.shiftRight_eq_div_pow]
  omega

/-- The decoder by the number of the word: divisions in place of masks. -/
theorem decodeCommand_by_number (w : Word) :
    decodeCommand w =
      if w.toNat = 0 then .ok .nop
      else if w.toNat / 2 = 0x800 then .ok (.start (modelField w))
      else if w.toNat / 512 = 0x10 then .ok (.sample (timeoutField w) (durationField w))
      else .error (if w.toNat / 4096 = 0 then .reservedNop
        else if w.toNat / 4096 = 1 then .reservedStart
        else if w.toNat / 4096 = 2 then .reservedSample
        else .illegalOp) := by
  have hz : w = 0x0000#16 ↔ w.toNat = 0 := BitVec.toNat_inj.symm
  have ho (n : BitVec 4) : opField w = n ↔ w.toNat / 4096 = n.toNat := by
    rw [← opField_toNat, BitVec.toNat_inj]
  simp only [decodeCommand, illegalKind, start_pattern_iff, sample_pattern_iff, hz, ho]
  rfl

theorem modelField_eq (w : Word) : modelField w = if w.toNat % 2 = 1 then .modelB else .modelA := by
  simp only [modelField, BitVec.getLsbD, Nat.testBit_zero, decide_eq_true_eq]

theorem timeoutField_eq (w : Word) : timeoutField w = decide (w.toNat / 256 % 2 = 1) := by
  simp only [timeoutField, BitVec.getLsbD, Nat.testBit_eq_decide_div_mod_eq]

theorem durationField_toNat (w : Word) : (durationField w).toNat = w.toNat % 256 := by
  rw [durationField, BitVec.extractLsb'_toNat]
  rfl

/-- How many numbers below `n` lie in an interval. -/
theorem countP_range_interval (lo hi n : Nat) (h : lo ≤ hi) :
    (List.range n).countP (fun k => decide (lo ≤ k) && decide (k < hi)) = min hi n - min lo n := by
  induction n with
  | zero => simp
  | succ n ih =>
    rw [List.range_succ, List.countP_append, ih, List.countP_singleton]
    simp only [Bool.and_eq_true, decide_eq_true_eq]
    split <;> omega

end Sys2Proof
end

