-- ==== Sys2Proof/Laws/State.lean ====
section
/-! SUPPORT. One lemma per field per update of the state and of the validator's registers. -/

namespace Sys2Proof.Machine

@[simp] theorem State.withRegs_regs (s : State) (r : Regs) : (s.withRegs r).regs = r := rfl
@[simp] theorem State.withRegs_params (s : State) (r : Regs) : (s.withRegs r).params = s.params := rfl
@[simp] theorem State.withRegs_moves (s : State) (r : Regs) : (s.withRegs r).moves = s.moves := rfl
@[simp] theorem State.withRegs_taken (s : State) (r : Regs) : (s.withRegs r).taken = s.taken := rfl

@[simp] theorem State.withRegs_self (s : State) : s.withRegs s.regs = s := rfl

@[simp] theorem State.withMoves_regs (s : State) (l : List HostMove) : (s.withMoves l).regs = s.regs := rfl
@[simp] theorem State.withMoves_params (s : State) (l : List HostMove) : (s.withMoves l).params = s.params := rfl
@[simp] theorem State.withMoves_moves (s : State) (l : List HostMove) : (s.withMoves l).moves = l := rfl
@[simp] theorem State.withMoves_taken (s : State) (l : List HostMove) : (s.withMoves l).taken = s.taken := rfl

@[simp] theorem State.take_regs (s : State) (a : ReadAddr) (v : Word) : (s.take a v).regs = s.regs := rfl
@[simp] theorem State.take_params (s : State) (a : ReadAddr) (v : Word) : (s.take a v).params = s.params := rfl
@[simp] theorem State.take_moves (s : State) (a : ReadAddr) (v : Word) : (s.take a v).moves = s.moves := rfl
@[simp] theorem State.take_taken (s : State) (a : ReadAddr) (v : Word) :
    (s.take a v).taken = ⟨a, v⟩ :: s.taken := rfl

@[simp] theorem State.applyReset_regs (s : State) : s.applyReset.regs = Regs.reset := rfl
@[simp] theorem State.applyReset_params (s : State) : s.applyReset.params = s.params := rfl
@[simp] theorem State.applyReset_moves (s : State) : s.applyReset.moves = s.moves := rfl
@[simp] theorem State.applyReset_taken (s : State) : s.applyReset.taken = s.taken := rfl

@[simp] theorem State.refuse_regs (s : State) : s.refuse.regs = s.regs.refuse := rfl
@[simp] theorem State.refuse_params (s : State) : s.refuse.params = s.params := rfl
@[simp] theorem State.refuse_moves (s : State) : s.refuse.moves = s.moves := rfl
@[simp] theorem State.refuse_taken (s : State) : s.refuse.taken = s.taken := rfl

@[simp] theorem Regs.refuse_st (r : Regs) : r.refuse.st = r.st := rfl
@[simp] theorem Regs.refuse_res (r : Regs) : r.refuse.res = r.res := rfl
@[simp] theorem Regs.refuse_model (r : Regs) : r.refuse.model = r.model := rfl
@[simp] theorem Regs.refuse_cnt (r : Regs) : r.refuse.cnt = r.cnt := rfl
@[simp] theorem Regs.refuse_acc (r : Regs) : r.refuse.acc = r.acc := rfl
@[simp] theorem Regs.refuse_rh (r : Regs) : r.refuse.rh = r.rh := rfl
@[simp] theorem Regs.refuse_rt (r : Regs) : r.refuse.rt = r.rt := rfl
@[simp] theorem Regs.refuse_err (r : Regs) : r.refuse.err = true := rfl

@[simp] theorem Regs.endAttempt_st (r : Regs) (o : Result) : (r.endAttempt o).st = .done := rfl
@[simp] theorem Regs.endAttempt_res (r : Regs) (o : Result) : (r.endAttempt o).res = o := rfl
@[simp] theorem Regs.endAttempt_model (r : Regs) (o : Result) : (r.endAttempt o).model = r.model := rfl
@[simp] theorem Regs.endAttempt_cnt (r : Regs) (o : Result) : (r.endAttempt o).cnt = r.cnt := rfl
@[simp] theorem Regs.endAttempt_acc (r : Regs) (o : Result) : (r.endAttempt o).acc = r.acc := rfl
@[simp] theorem Regs.endAttempt_rh (r : Regs) (o : Result) : (r.endAttempt o).rh = r.rh := rfl
@[simp] theorem Regs.endAttempt_rt (r : Regs) (o : Result) : (r.endAttempt o).rt = r.rt := rfl
@[simp] theorem Regs.endAttempt_err (r : Regs) (o : Result) : (r.endAttempt o).err = r.err := rfl

@[simp] theorem Regs.beginAttempt_st (r : Regs) (m : SensorModel) : (r.beginAttempt m).st = .busy := rfl
@[simp] theorem Regs.beginAttempt_res (r : Regs) (m : SensorModel) : (r.beginAttempt m).res = .none := rfl
@[simp] theorem Regs.beginAttempt_model (r : Regs) (m : SensorModel) : (r.beginAttempt m).model = m := rfl
@[simp] theorem Regs.beginAttempt_cnt (r : Regs) (m : SensorModel) : (r.beginAttempt m).cnt = 0 := rfl
@[simp] theorem Regs.beginAttempt_acc (r : Regs) (m : SensorModel) : (r.beginAttempt m).acc = 0 := rfl
@[simp] theorem Regs.beginAttempt_rh (r : Regs) (m : SensorModel) : (r.beginAttempt m).rh = 0 := rfl
@[simp] theorem Regs.beginAttempt_rt (r : Regs) (m : SensorModel) : (r.beginAttempt m).rt = 0 := rfl
@[simp] theorem Regs.beginAttempt_err (r : Regs) (m : SensorModel) : (r.beginAttempt m).err = false := rfl

/-- Two states with the same four parts are the same state. -/
theorem State.ext_parts {s t : State} (hr : s.regs = t.regs) (hp : s.params = t.params) (hm : s.moves = t.moves)
    (ht : s.taken = t.taken) : s = t := by
  cases s; cases t; simp_all

end Sys2Proof.Machine
end

