-- ==== Sys2Proof/Laws/Meanings.lean ====
section
/-! SUPPORT. What each meaning and each shared operation answers, said once: START and SAMPLE by their cases, and
exec, a command word and a read as one total function each. -/

namespace Sys2Proof.Machine

theorem Regs.start_busy {r : Regs} (m : SensorModel) (h : r.st = .busy) : r.start m = r.refuse := by
  simp [Regs.start, h]

theorem Regs.start_accepted {r : Regs} (m : SensorModel) (h : r.st ≠ .busy) : r.start m = r.beginAttempt m := by
  simp [Regs.start, h]

theorem Regs.sample_refused {r : Regs} (p : Params) (t : Bool) (d : Byte) (h : r.st ≠ .busy) :
    r.sample p t d = r.refuse := by
  simp [Regs.sample, h]

theorem Regs.sample_timedOut {r : Regs} {p : Params} {t : Bool} {d : Byte} (h : r.st = .busy)
    (ht : timedOut p t d = true) : r.sample p t d = r.endAttempt .timeout := by
  simp [Regs.sample, h, ht]

theorem Regs.sample_observed {r : Regs} {p : Params} {t : Bool} {d : Byte} (h : r.st = .busy)
    (ht : timedOut p t d = false) : r.sample p t d = r.observe p d := by
  simp [Regs.sample, h, ht]

/-- A SAMPLE without the flag is timed out exactly when its duration is over the threshold (R76). -/
theorem timedOut_false_iff (p : Params) (t : Bool) (d : Byte) :
    timedOut p t d = false ↔ t = false ∧ d.toNat ≤ p.timeoutUs.toNat := by
  simp [timedOut, BitVec.ult]

/-- Exec(s, w) of R64 on the validator's registers. -/
def Regs.command (r : Regs) (p : Params) (w : Word) : Regs :=
  match decodeCommand w with
  | .ok .nop => r
  | .ok (.start m) => r.start m
  | .ok (.sample t d) => r.sample p t d
  | _ => r.refuse

theorem Regs.command_nop {w : Word} (r : Regs) (p : Params) (h : decodeCommand w = .ok .nop) : r.command p w = r := by
  simp only [Regs.command, h]

theorem Regs.command_start {w : Word} {m : SensorModel} (r : Regs) (p : Params)
    (h : decodeCommand w = .ok (.start m)) : r.command p w = r.start m := by
  simp only [Regs.command, h]

theorem Regs.command_sample {w : Word} {t : Bool} {d : Byte} (r : Regs) (p : Params)
    (h : decodeCommand w = .ok (.sample t d)) : r.command p w = r.sample p t d := by
  simp only [Regs.command, h]

theorem Regs.command_illegal {w : Word} {k : IllegalWord} (r : Regs) (p : Params) (h : decodeCommand w = .error k) :
    r.command p w = r.refuse := by
  simp only [Regs.command, h]

/-- What a command word can do to the validator: nothing, or one of the three commands, or a refusal. -/
theorem Regs.command_cases (r : Regs) (p : Params) (w : Word) :
    (decodeCommand w = .ok .nop ∧ r.command p w = r) ∨
      (∃ m, decodeCommand w = .ok (.start m) ∧ r.command p w = r.start m) ∨
      (∃ t d, decodeCommand w = .ok (.sample t d) ∧ r.command p w = r.sample p t d) ∨
      ∃ k, decodeCommand w = .error k ∧ r.command p w = r.refuse := by
  rcases decodeCommand_cases w with h | ⟨m, h⟩ | ⟨t, d, h⟩ | ⟨k, h⟩
  · exact .inl ⟨h, r.command_nop p h⟩
  · exact .inr (.inl ⟨m, h, r.command_start p h⟩)
  · exact .inr (.inr (.inl ⟨t, d, h, r.command_sample p h⟩))
  · exact .inr (.inr (.inr ⟨k, h, r.command_illegal p h⟩))

theorem runCommand_eq (w : Word) (s : State) :
    runCommand w s = .next (s.withRegs (s.regs.command s.params w)) := by
  rcases decodeCommand_cases w with h | ⟨m, h⟩ | ⟨t, d, h⟩ | ⟨k, h⟩ <;>
    simp [runCommand, Regs.command, decode, h, exec, execNop, execStart, execSample, State.refuse]

/-- A read answers the register of its address and changes nothing of the validator (R37, R38). -/
theorem runRead_eq (a : ReadAddr) (s : State) : runRead a s = .next (s.take a (s.readPort a)) := by
  rcases decodeReadAddr_cases a with ⟨rfl, h⟩ | ⟨rfl, h⟩ | ⟨rfl, h⟩ | ⟨rfl, h⟩ | ⟨rfl, h⟩ | ⟨rfl, h⟩ | ⟨rfl, h⟩ |
      ⟨rfl, h⟩ <;>
    (rw [runRead, h]; rfl)

/-- The validator's registers after one move of the host (R28, R29). -/
def Regs.afterMove (r : Regs) (p : Params) : HostMove → Regs
  | .edge true _ _ => Regs.reset
  | .edge false true w => r.command p w
  | .edge false false _ => r
  | .read _ => r

/-- What the host has taken after one move. -/
def State.takenAfter (s : State) : HostMove → List Reading
  | .read a => ⟨a, s.readPort a⟩ :: s.taken
  | .edge _ _ _ => s.taken

/-- The state after one move of the host. -/
def State.afterMove (s : State) (m : HostMove) : State where
  regs := s.regs.afterMove s.params m
  params := s.params
  moves := s.moves
  taken := s.takenAfter m

@[simp] theorem State.afterMove_regs (s : State) (m : HostMove) :
    (s.afterMove m).regs = s.regs.afterMove s.params m := rfl
@[simp] theorem State.afterMove_params (s : State) (m : HostMove) : (s.afterMove m).params = s.params := rfl
@[simp] theorem State.afterMove_moves (s : State) (m : HostMove) : (s.afterMove m).moves = s.moves := rfl
@[simp] theorem State.afterMove_taken (s : State) (m : HostMove) : (s.afterMove m).taken = s.takenAfter m := rfl

/-- The one lemma about a move: it always answers, and this is what it answers. -/
theorem runMove_eq (m : HostMove) (s : State) : runMove m s = .next (s.afterMove m) := by
  cases m with
  | read a => exact runRead_eq a s
  | edge rst v w =>
    cases rst
    · cases v
      · rfl
      · exact runCommand_eq w s
    · rfl

/-- A move does not look at the moves that come after it. -/
@[simp] theorem State.withMoves_afterMove (s : State) (l : List HostMove) (m : HostMove) :
    (s.withMoves l).afterMove m = (s.afterMove m).withMoves l := by
  cases m <;> rfl

end Sys2Proof.Machine
end

