-- ==== Sys2Proof/Laws/Payload.lean ====
section
/-! SUPPORT. What the byte fields, the shift-in and the payload quantities answer, as numbers and as bits. -/

namespace Sys2Proof.Machine

theorem highByte_toNat (v : Word) : (highByte v).toNat = v.toNat / 256 := by
  have := v.isLt
  rw [highByte, BitVec.extractLsb'_toNat, Nat.shiftRight_eq_div_pow]
  omega

theorem lowByte_toNat (v : Word) : (lowByte v).toNat = v.toNat % 256 := by
  rw [lowByte, BitVec.extractLsb'_toNat]
  rfl

/-- A word is its two bytes. -/
theorem highByte_append_lowByte (v : Word) : highByte v ++ lowByte v = v := by
  apply BitVec.eq_of_getLsbD_eq
  intro i hi
  rw [BitVec.getLsbD_append, highByte, lowByte, BitVec.getLsbD_extractLsb', BitVec.getLsbD_extractLsb']
  by_cases h : i < 8
  · simp [h]
  · have h8 : i - 8 < 8 := by omega
    have hs : 8 + (i - 8) = i := by omega
    simp [h, h8, hs]

/-- The shift-in, bit by bit (R77): the new bit at the low end, every other bit one place up. -/
theorem shiftIn_getLsbD (a : Word) (b : Bool) (j : Nat) :
    (shiftIn a b).getLsbD j = if j = 0 then b else decide (j < 16) && a.getLsbD (j - 1) := by
  rw [shiftIn, BitVec.getLsbD_or, BitVec.getLsbD_shiftLeft, BitVec.getLsbD_setWidth]
  cases j <;> simp

/-- The humidity fits its register: it is never narrowed (R103). -/
theorem hum_lt (m : SensorModel) (rh : Word) : hum m rh < 65536 := by
  have := rh.isLt
  cases m
  · rw [hum, highByte_toNat, lowByte_toNat]; omega
  · exact this

/-- The magnitude of a temperature fits fifteen bits (R103). -/
theorem tmag_lt (m : SensorModel) (rt : Word) : tmag m rt < 32768 := by
  have := rt.isLt
  cases m
  · have h7 : (rt.extractLsb' 0 7).toNat < 128 := (rt.extractLsb' 0 7).isLt
    rw [tmag, highByte_toNat]
    omega
  · exact (rt.extractLsb' 0 15).isLt

end Sys2Proof.Machine
end

