-- ==== Sys2Proof/Laws/PerInstr.lean ====
section
/-! SUPPORT. The family TableRow: every instruction's encoding lies in its row of spec/opcode_table.json, one
lemma per constructor. -/

namespace Sys2Proof.Laws.TableRow

/-- The pattern of a row of the opcode table: the bits that are fixed and their values, on the port the row names. -/
inductive Row where
  | cmd16 (mask pattern : Word)
  | rdaddr (address : ReadAddr)
  deriving DecidableEq, Repr

/-- The rows of spec/opcode_table.json (R52, R61), one for each constructor. -/
def rowOf : Instr → Row
  | .nop => .cmd16 0xFFFF 0x0000
  | .start _ => .cmd16 0xFFFE 0x1000
  | .sample _ _ => .cmd16 0xFE00 0x2000
  | .rdStatus => .rdaddr 0
  | .rdRawHum => .rdaddr 1
  | .rdRawTemp => .rdaddr 2
  | .rdAcc => .rdaddr 3
  | .rdSum => .rdaddr 4
  | .rdHumDeci => .rdaddr 5
  | .rdTempDeci => .rdaddr 6
  | .rdParams => .rdaddr 7

/-- A word on a port lies in a row. -/
def Row.holds : Row → PortWord → Bool
  | .cmd16 mask pattern, .command w => w &&& mask == pattern
  | .rdaddr address, .readAddr a => a == address
  | .cmd16 _ _, .readAddr _ => false
  | .rdaddr _, .command _ => false

/-- The encoding of a well-formed instruction lies in its own row. -/
def Statement (i : Instr) : Prop := i.wellFormed = true → (rowOf i).holds (encode i) = true

theorem nop : Statement .nop := fun _ => rfl

theorem start (m : SensorModel) : Statement (.start m) := by
  intro _
  cases m <;> rfl

theorem sample (t : Bool) (d : Byte) : Statement (.sample t d) := by
  intro _
  revert d
  cases t <;> decide

theorem rdStatus : Statement .rdStatus := fun _ => rfl
theorem rdRawHum : Statement .rdRawHum := fun _ => rfl
theorem rdRawTemp : Statement .rdRawTemp := fun _ => rfl
theorem rdAcc : Statement .rdAcc := fun _ => rfl
theorem rdSum : Statement .rdSum := fun _ => rfl
theorem rdHumDeci : Statement .rdHumDeci := fun _ => rfl
theorem rdTempDeci : Statement .rdTempDeci := fun _ => rfl
theorem rdParams : Statement .rdParams := fun _ => rfl

end Sys2Proof.Laws.TableRow
end

