-- ==== Sys2Proof/Laws/Run.lean ====
section
/-! SUPPORT. What a step and a run of many steps answer. -/

namespace Sys2Proof.Machine

theorem step_nil {s : State} (h : s.moves = []) : step s = .next s := by
  simp [step, h]

theorem step_cons {s : State} {m : HostMove} {rest : List HostMove} (h : s.moves = m :: rest) :
    step s = .next ((s.afterMove m).withMoves rest) := by
  simp [step, h, runMove_eq]

/-- The inversion lemma of step: an idle step, or one move of the host. -/
theorem step_cases {s t : State} (h : step s = .next t) :
    (s.moves = [] ∧ t = s) ∨ ∃ m rest, s.moves = m :: rest ∧ t = (s.afterMove m).withMoves rest := by
  cases hm : s.moves with
  | nil =>
    rw [step_nil hm] at h
    cases h
    exact .inl ⟨rfl, rfl⟩
  | cons m rest =>
    rw [step_cons hm] at h
    cases h
    exact .inr ⟨m, rest, rfl, rfl⟩

/-- The state after a list of moves. -/
def State.afterMoves (s : State) (l : List HostMove) : State := l.foldl State.afterMove s

@[simp] theorem State.afterMoves_nil (s : State) : s.afterMoves [] = s := rfl

@[simp] theorem State.afterMoves_cons (s : State) (m : HostMove) (l : List HostMove) :
    s.afterMoves (m :: l) = (s.afterMove m).afterMoves l := rfl

theorem State.afterMoves_append (s : State) (l k : List HostMove) :
    s.afterMoves (l ++ k) = (s.afterMoves l).afterMoves k := by
  simp [State.afterMoves]

@[simp] theorem State.afterMoves_params (s : State) (l : List HostMove) : (s.afterMoves l).params = s.params := by
  induction l generalizing s with
  | nil => rfl
  | cons m l ih => simp [ih]

/-- The validator's registers after a list of moves depend on nothing but themselves and the parameters. -/
theorem State.afterMoves_regs (s : State) (l : List HostMove) :
    (s.afterMoves l).regs = l.foldl (fun r m => r.afterMove s.params m) s.regs := by
  induction l generalizing s with
  | nil => rfl
  | cons m l ih => simp [ih]

/-- A run that begins with a step to `t` goes on from `t`. -/
theorem run_succ {s t : State} (k : Nat) (h : step s = .next t) :
    Host.Core.run Sys2Proof.core (k + 1) s = Host.Core.run Sys2Proof.core k t := by
  have h' : Sys2Proof.core.step s = Host.Outcome.next t := h
  simp only [Host.Core.run, h']

/-- A run over the moves at the head of the list. -/
theorem run_moves (l rest : List HostMove) (s : State) :
    Host.Core.run Sys2Proof.core l.length (s.withMoves (l ++ rest)) = .next ((s.afterMoves l).withMoves rest) := by
  induction l generalizing s with
  | nil => rfl
  | cons m l ih =>
    have h : step (s.withMoves (m :: l ++ rest)) = .next ((s.afterMove m).withMoves (l ++ rest)) := step_cons rfl
    rw [List.length_cons, run_succ _ h]
    exact ih _

end Sys2Proof.Machine
end

