-- ==== Sys2Proof/Laws/Sample.lean ====
section
/-! SUPPORT. What one observation writes, in terms of the number of observations before it, and what a list of
observations does. -/

namespace Sys2Proof.Machine

theorem Regs.index_eq (r : Regs) : r.index = (r.cnt.toNat : Int) - 3 := rfl

/-- The index is a snapshot's, or the last one, at one value of the counter each. -/
theorem Regs.index_eq_humSnap (r : Regs) : r.index = Config.humSnapIndex ↔ r.cnt.toNat = 34 := by
  rw [Regs.index_eq, Config.humSnapIndex]; omega

theorem Regs.index_eq_tempSnap (r : Regs) : r.index = Config.tempSnapIndex ↔ r.cnt.toNat = 66 := by
  rw [Regs.index_eq, Config.tempSnapIndex]; omega

theorem Regs.index_eq_last (r : Regs) : r.index = Config.lastIndex ↔ r.cnt.toNat = 82 := by
  rw [Regs.index_eq, Config.lastIndex]; omega

/-- Bits are taken at the even values of the counter from 4 on (R77, R87). -/
theorem Regs.takesBit_index (r : Regs) : takesBit r.index = true ↔ 4 ≤ r.cnt.toNat ∧ r.cnt.toNat % 2 = 0 := by
  rw [Regs.index_eq, takesBit, Bool.and_eq_true, decide_eq_true_eq, beq_iff_eq]; omega

theorem Regs.shifted_eq (r : Regs) (p : Params) (d : Byte) :
    r.shifted p d =
      if 4 ≤ r.cnt.toNat ∧ r.cnt.toNat % 2 = 0 then shiftIn r.acc (dataBit p d) else r.acc := by
  simp only [Regs.shifted, Regs.takesBit_index]

@[simp] theorem Regs.observe_cnt (r : Regs) (p : Params) (d : Byte) : (r.observe p d).cnt = r.cnt + 1 := by
  unfold Regs.observe; split <;> rfl

@[simp] theorem Regs.observe_model (r : Regs) (p : Params) (d : Byte) : (r.observe p d).model = r.model := by
  unfold Regs.observe; split <;> rfl

@[simp] theorem Regs.observe_err (r : Regs) (p : Params) (d : Byte) : (r.observe p d).err = r.err := by
  unfold Regs.observe; split <;> rfl

theorem Regs.observe_acc (r : Regs) (p : Params) (d : Byte) :
    (r.observe p d).acc = if r.cnt.toNat = 66 then 0 else r.shifted p d := by
  unfold Regs.observe; split <;> simp only [Regs.endAttempt, Regs.advance, Regs.index_eq_tempSnap]

theorem Regs.observe_rh (r : Regs) (p : Params) (d : Byte) :
    (r.observe p d).rh = if r.cnt.toNat = 34 then r.shifted p d else r.rh := by
  unfold Regs.observe; split <;> simp only [Regs.endAttempt, Regs.advance, Regs.index_eq_humSnap]

theorem Regs.observe_rt (r : Regs) (p : Params) (d : Byte) :
    (r.observe p d).rt = if r.cnt.toNat = 66 then r.shifted p d else r.rt := by
  unfold Regs.observe; split <;> simp only [Regs.endAttempt, Regs.advance, Regs.index_eq_tempSnap]

theorem Regs.observe_st (r : Regs) (p : Params) (d : Byte) :
    (r.observe p d).st = if r.cnt.toNat = 82 then .done else r.st := by
  unfold Regs.observe; simp only [Regs.index_eq_last]; split <;> rfl

theorem Regs.observe_res (r : Regs) (p : Params) (d : Byte) :
    (r.observe p d).res = if r.cnt.toNat = 82 then (r.advance p d).verdict else r.res := by
  unfold Regs.observe; simp only [Regs.index_eq_last]; split <;> rfl

/-- At the last index neither snapshot is taken, so the verdict compares the snapshots held. -/
theorem Regs.advance_verdict_last (r : Regs) (p : Params) (d : Byte) (h : r.cnt.toNat = 82) :
    (r.advance p d).verdict =
      if checksum8 r.rh r.rt = lowByte (shiftIn r.acc (dataBit p d)) then .ok else .checksum := by
  simp [Regs.verdict, Regs.advance, Regs.index_eq_humSnap, Regs.index_eq_tempSnap, Regs.shifted_eq, h]

/-- A list of observations, none timed out. -/
def Regs.observes (r : Regs) (p : Params) (ds : List Byte) : Regs := ds.foldl (fun r d => r.observe p d) r

@[simp] theorem Regs.observes_nil (r : Regs) (p : Params) : r.observes p [] = r := rfl

@[simp] theorem Regs.observes_cons (r : Regs) (p : Params) (d : Byte) (ds : List Byte) :
    r.observes p (d :: ds) = (r.observe p d).observes p ds := rfl

theorem Regs.observes_append (r : Regs) (p : Params) (ds es : List Byte) :
    r.observes p (ds ++ es) = (r.observes p ds).observes p es := by
  simp [Regs.observes]

/-- A SAMPLE move is the SAMPLE instruction. -/
theorem State.afterMove_sample (s : State) (t : Bool) (d : Byte) :
    s.afterMove (sampleMove t d) = s.withRegs (s.regs.sample s.params t d) := by
  have h : runMove (sampleMove t d) s = exec (.sample t d) s := by
    simp [sampleMove, portMove, encode, runMove, runEdge, runCommand, decode]
  rw [runMove_eq] at h
  exact Host.Outcome.next.inj h

/-- A START move is the START instruction. -/
theorem State.afterMove_start (s : State) (m : SensorModel) :
    s.afterMove (startMove m) = s.withRegs (s.regs.start m) := by
  have h : runMove (startMove m) s = exec (.start m) s := by
    simp [startMove, portMove, encode, runMove, runEdge, runCommand, decode]
  rw [runMove_eq] at h
  exact Host.Outcome.next.inj h

/-- A list of SAMPLE moves that are not timed out, short enough for the attempt, is a list of observations. -/
theorem State.afterMoves_samples (s : State) (ds : List Byte) (hb : s.regs.st = .busy) (ht : OnTime s.params ds)
    (hn : s.regs.cnt.toNat + ds.length ≤ 83) :
    s.afterMoves (sampleMoves ds) = s.withRegs (s.regs.observes s.params ds) := by
  induction ds generalizing s with
  | nil => rfl
  | cons d ds ih =>
    have hd : timedOut s.params false d = false := (timedOut_false_iff _ _ _).2 ⟨rfl, ht d (by simp)⟩
    rw [sampleMoves, List.map_cons, State.afterMoves_cons, State.afterMove_sample, Regs.sample_observed hb hd,
      Regs.observes_cons]
    cases ds with
    | nil => rfl
    | cons e es =>
      have hlen : s.regs.cnt.toNat ≤ 81 := by simp only [List.length_cons] at hn; omega
      have hc : (s.regs.cnt + 1).toNat = s.regs.cnt.toNat + 1 := by
        have h1 : (1 : Count).toNat = 1 := rfl
        rw [BitVec.toNat_add, h1]
        omega
      have := ih (s.withRegs (s.regs.observe s.params d))
        (by rw [State.withRegs_regs, Regs.observe_st, if_neg (by omega)]; exact hb)
        (fun x hx => ht x (List.mem_cons_of_mem _ hx))
        (by rw [State.withRegs_regs, Regs.observe_cnt, hc]; simp only [List.length_cons] at hn ⊢; omega)
      exact this

end Sys2Proof.Machine
end

