-- ==== Sys2Proof/Tests/Slice0.lean ====
section
/-! SUPPORT. Tests on fixed values, and for every statement with hypotheses a state and operands that meet them.
Expected values are those of 95_test_vectors.md (its row names stand in the comments), of the opcode table, or
counted by hand from the rule named. -/

open Sys2Proof Sys2Proof.Machine

namespace Sys2Proof.Tests

/-! ## Helpers -/

/-- A BUSY state, ModelA, default parameters. -/
def busyAt (cnt : Count) (acc rh rt : Word) : State :=
  State.reset.withRegs
    { st := .busy, res := .none, model := .modelA, cnt := cnt, acc := acc, rh := rh, rt := rt, err := false }

/-- A DONE state with 83 observations, default parameters. -/
def doneWith (res : Result) (model : SensorModel) (acc rh rt : Word) : State :=
  State.reset.withRegs
    { st := .done, res := res, model := model, cnt := 83, acc := acc, rh := rh, rt := rt, err := false }

/-- The end of program P1. -/
def endOfP1 : State := doneWith .ok .modelA 0x004C 0x3200 0x1A00

/-- The validator's registers in an outcome. -/
def regsOf : Host.Outcome State Fault Refusal → Option Regs
  | .next s => some s.regs
  | .fault _ => none
  | .refused _ => none

/-- The latest reading in an outcome. -/
def readOf : Host.Outcome State Fault Refusal → Option Reading
  | .next s => s.taken.head?
  | .fault _ => none
  | .refused _ => none

/-! ## Well-formedness: an ill-formed term for each check -/

theorem test_wellFormed_refuses_sample : (AsmLine.sample 256).wellFormed = false := by decide
theorem test_wellFormed_refuses_sampleT : (AsmLine.sampleT 256).wellFormed = false := by decide
theorem test_wellFormed_refuses_word : (AsmLine.word 0x10000).wellFormed = false := by decide
theorem test_wellFormed_refuses_rd : (AsmLine.rd 8).wellFormed = false := by decide
theorem test_wellFormed_refuses_byte : (AsmLine.byte 256).wellFormed = false := by decide
theorem test_wellFormed_refuses_frame :
    (AsmLine.frame 0x10000 0 0).wellFormed = false ∧ (AsmLine.frame 0 0x10000 0).wellFormed = false ∧
      (AsmLine.frame 0 0 256).wellFormed = false := by decide
theorem test_wellFormed_refuses_frameOk :
    (AsmLine.frameOk 0x10000 0).wellFormed = false ∧ (AsmLine.frameOk 0 0x10000).wellFormed = false := by decide
theorem test_wellFormed_refuses_params :
    (Params.mk 0 0).wellFormed = false ∧ (Params.mk 255 255).wellFormed = false ∧
      (Params.mk 90 90).wellFormed = false := by decide
theorem test_wellFormed_accepts_edges :
    (AsmLine.sample 255).wellFormed = true ∧ (AsmLine.word 0xFFFF).wellFormed = true ∧
      (AsmLine.rd 7).wellFormed = true ∧ (AsmLine.frame 0xFFFF 0xFFFF 255).wellFormed = true ∧
      (Params.mk 255 254).wellFormed = true ∧ (Params.mk 1 0).wellFormed = true := by decide

/-! ## Decoding: words written out bit by bit from spec/opcode_table.json -/

theorem test_decode_nop : decode (.command 0b0000000000000000#16) = .ok .nop := by decide
theorem test_decode_start :
    decode (.command 0b0001000000000000#16) = .ok (.start .modelA) ∧
      decode (.command 0b0001000000000001#16) = .ok (.start .modelB) := by decide
theorem test_decode_sample :
    decode (.command 0b0010000000011110#16) = .ok (.sample false 30) ∧
      decode (.command 0b0010000110000001#16) = .ok (.sample true 129) := by decide
theorem test_decode_rdStatus : decode (.readAddr 0b000#3) = .ok .rdStatus := by decide
theorem test_decode_rdRawHum : decode (.readAddr 0b001#3) = .ok .rdRawHum := by decide
theorem test_decode_rdRawTemp : decode (.readAddr 0b010#3) = .ok .rdRawTemp := by decide
theorem test_decode_rdAcc : decode (.readAddr 0b011#3) = .ok .rdAcc := by decide
theorem test_decode_rdSum : decode (.readAddr 0b100#3) = .ok .rdSum := by decide
theorem test_decode_rdHumDeci : decode (.readAddr 0b101#3) = .ok .rdHumDeci := by decide
theorem test_decode_rdTempDeci : decode (.readAddr 0b110#3) = .ok .rdTempDeci := by decide
theorem test_decode_rdParams : decode (.readAddr 0b111#3) = .ok .rdParams := by decide

/-- One reserved bit of each legal OP, and three illegal OPs (section 2.1). -/
theorem test_decode_refuses_by_kind :
    decodeCommand 0x0800 = .error .reservedNop ∧ decodeCommand 0x1002 = .error .reservedStart ∧
      decodeCommand 0x2200 = .error .reservedSample ∧ decodeCommand 0x3000 = .error .illegalOp ∧
      decodeCommand 0x8000 = .error .illegalOp ∧ decodeCommand 0xFFFF = .error .illegalOp := by decide

/-- The words of R62 and R63. -/
theorem test_encode_words :
    encode .nop = .command 0x0000 ∧ encode (.start .modelB) = .command 0x1001 ∧
      encode (.sample false 70) = .command 0x2046 ∧ encode (.sample true 0) = .command 0x2100 ∧
      encode .rdParams = .readAddr 7 := by decide

/-- A number too large for its port is no table word (entry 8). -/
theorem test_table_word_too_large : decodeTableWord 16 0x10000 = none ∧ decodeTableWord 8 8 = none := by decide

/-! ## The assembler (R62, R63) -/

theorem test_assemble_text :
    assembleText "START b ; ModelB\n\n  sample.t 0x1E\nrd hum_deci\n.word 0x3000".toList =
      some [.command 0x1001, .command 0x211E, .readAddr 5, .command 0x3000] := by decide
theorem test_assemble_pseudo :
    assembleText "hs\nbit0\nbit1\ntimeout".toList =
      some [.command 0x2014, .command 0x2050, .command 0x2050, .command 0x2032, .command 0x201A, .command 0x2032,
        .command 0x2046, .command 0x2100] := by decide
theorem test_assemble_refuses_range :
    assembleText "sample 256".toList = none ∧ assembleText ".word 0x10000".toList = none := by decide
theorem test_assemble_frame_length : (frameWords 0x3200 0x1A00 0x4C).length = 83 := by decide
theorem test_disassemble :
    disassembleText 0x205A = "sample 90".toList ∧ disassembleText 0x2100 = "sample.t 0".toList ∧
      disassembleText 0x1000 = "start a".toList := by decide

/-! ## Instructions -/

/-- CTL-7. -/
theorem test_nop_in_busy : regsOf (exec .nop (busyAt 10 1 0 0)) = some (busyAt 10 1 0 0).regs := by decide
/-- ERR-7: NOP does not clear `err`. -/
theorem test_nop_keeps_err : regsOf (exec .nop endOfP1.refuse) = some endOfP1.refuse.regs := by decide

/-- CTL-4: START clears the previous result, and CTL-3's STATUS. -/
theorem test_start_from_done :
    regsOf (exec (.start .modelB) endOfP1) = some (Regs.reset.beginAttempt .modelB) ∧
      (Regs.reset.beginAttempt .modelB).statusWord = 0x001D := by decide
/-- CTL-6. -/
theorem test_start_in_busy :
    regsOf (exec (.start .modelB) (busyAt 10 1 0 0)) =
      some { st := .busy, res := .none, model := .modelA, cnt := 10, acc := 1, rh := 0, rt := 0, err := true } := by
  decide

/-- S-17: the snapshot takes the new bit and the accumulator is cleared. -/
theorem test_sample_temperature_snapshot :
    regsOf (exec (.sample false 70) (busyAt 66 0x0D00 0x3200 0)) = some (busyAt 67 0 0x3200 0x1A01).regs := by decide
/-- S-20 and S-21: at the last index a wrong bit gives CHECKSUM, a timeout TIMEOUT. -/
theorem test_sample_last_index :
    regsOf (exec (.sample false 70) (busyAt 82 0x0026 0x3200 0x1A00)) =
        some (doneWith .checksum .modelA 0x004D 0x3200 0x1A00).regs ∧
      regsOf (exec (.sample true 0) (busyAt 82 0x0026 0x3200 0x1A00)) =
        some { st := .done, res := .timeout, model := .modelA, cnt := 82, acc := 0x0026, rh := 0x3200, rt := 0x1A00,
               err := false } := by decide

/-- DEC-8: ModelB, a negative temperature. -/
theorem test_rdStatus :
    readOf (exec .rdStatus (doneWith .ok .modelB 0x8E 0x01F4 0x8019)) = some ⟨0, 0x5372⟩ := by decide
/-- R102: not gated by VALID. -/
theorem test_rdRawHum :
    readOf (exec .rdRawHum (doneWith .checksum .modelA 0x4D 0x3200 0x1A00)) = some ⟨1, 0x3200⟩ := by decide
/-- R102. -/
theorem test_rdRawTemp :
    readOf (exec .rdRawTemp (doneWith .checksum .modelA 0x4D 0x3200 0x1A00)) = some ⟨2, 0x1A00⟩ := by decide
/-- R102. -/
theorem test_rdAcc : readOf (exec .rdAcc (doneWith .checksum .modelA 0x4D 0x3200 0x1A00)) = some ⟨3, 0x4D⟩ := by decide
/-- Section 2.5: 0x80 + 0xFF + 0x01 + 0x81 = 0x201. -/
theorem test_rdSum : readOf (exec .rdSum (busyAt 82 0 0x80FF 0x0181)) = some ⟨4, 0x01⟩ := by decide
/-- DEC-4, and 0 after a CHECKSUM. -/
theorem test_rdHumDeci :
    readOf (exec .rdHumDeci (doneWith .ok .modelA 0xFC 0xFFFF 0xFFFF)) = some ⟨5, 0x0AF5⟩ ∧
      readOf (exec .rdHumDeci (doneWith .checksum .modelA 0xFD 0xFFFF 0xFFFF)) = some ⟨5, 0⟩ := by decide
/-- DEC-2 and DEC-10. -/
theorem test_rdTempDeci :
    readOf (exec .rdTempDeci (doneWith .ok .modelA 0x8F 0 0x0A85)) = some ⟨6, 0xFF97⟩ ∧
      readOf (exec .rdTempDeci (doneWith .ok .modelB 0xFE 0 0xFFFF)) = some ⟨6, 0x8001⟩ := by decide
/-- R101 at the defaults. -/
theorem test_rdParams : readOf (exec .rdParams State.reset) = some ⟨7, 0x5A1E⟩ := by decide

/-! ## Operations and moves -/

/-- S-1 to S-7: both comparisons are strict. -/
theorem test_thresholds_are_strict :
    timedOut Config.defaultParams false 90 = false ∧ timedOut Config.defaultParams false 91 = true ∧
      timedOut Config.defaultParams true 0 = true ∧ dataBit Config.defaultParams 30 = false ∧
      dataBit Config.defaultParams 31 = true := by decide
/-- Section 2.4, the temperature column: DEC-1 to DEC-5, DEC-9, DEC-11. -/
theorem test_temp_vectors :
    temp .modelA 0x1A00 = 0x0104 ∧ temp .modelA 0x0A85 = 0xFF97 ∧ temp .modelA 0x0080 = 0 ∧
      temp .modelA 0xFFFF = 0xF58B ∧ temp .modelA 0xFF7F = 0x0A75 ∧ temp .modelB 0x7FFF = 0x7FFF ∧
      temp .modelB 0x8000 = 0 := by decide
/-- R105, the notes on DEC-3 and DEC-11: a negative zero for ModelA only. -/
theorem test_negative_zero :
    (doneWith .ok .modelA 0x80 0 0x0080).regs.negativeZero = true ∧
      (doneWith .ok .modelB 0x80 0 0x8000).regs.negativeZero = false ∧
      (doneWith .checksum .modelA 0x81 0 0x0080).regs.consumerTemperature = none := by decide
/-- R88: high at index -3, low at -2, high at -1, low at 0. -/
theorem test_levels_waited_on : ([-3, -2, -1, 0] : List Int).map waitsOnHigh = [true, false, true, false] := by decide
/-- RST-1: reset wins over a command. -/
theorem test_reset_wins : regsOf (runEdge true true 0x1001 (busyAt 50 3 4 0)) = some Regs.reset := by decide
/-- CTL-9: an idle edge ignores `cmd`. -/
theorem test_idle_edge : regsOf (runEdge false false 0x1001 endOfP1) = some endOfP1.regs := by decide
/-- ERR-5: an illegal word in BUSY. -/
theorem test_illegal_in_busy : regsOf (runCommand 0x0800 (busyAt 10 1 0 0)) = some (busyAt 10 1 0 0).regs.refuse := by
  decide
/-- Section 2.8: the read sees the state before the command. -/
theorem test_read_before_command :
    readOf (step (endOfP1.withMoves [.read 0, .edge false true 0x1000])) = some ⟨0, 0x5322⟩ := by decide
/-- A placed word is the next move. -/
theorem test_fetch_word :
    regsOf (step (State.reset.withFetchWord 16 0x1001)) = some (Regs.reset.beginAttempt .modelB) ∧
      readOf (step (State.reset.withFetchWord 8 7)) = some ⟨7, 0x5A1E⟩ := by decide

/-! ## Witnesses: the hypotheses of each statement, met together -/

theorem witness_DecodeIffEncode :
    (Instr.sample true 255).wellFormed = true ∧ decode (.command 0x21FF) = .ok (.sample true 255) ∧
      Instr.rdParams.wellFormed = true ∧ encode .rdParams = .readAddr 7 := by decide

theorem witness_CommandFieldsAreReadOut :
    0x1000 ≤ (0x1000 : Word).toNat ∧ (0x1001 : Word).toNat ≤ 0x1001 ∧ 0x2000 ≤ (0x2000 : Word).toNat ∧
      (0x21FF : Word).toNat ≤ 0x21FF := by decide

/-- Each kind of word, at both ends of its range. -/
theorem witness_ReservedBitsMakeAWordIllegal :
    (∀ w ∈ [(0x0001 : Word), 0x0FFF], w.toNat / 4096 = 0 ∧ w.toNat % 4096 ≠ 0) ∧
      (∀ w ∈ [(0x1002 : Word), 0x1FFF], w.toNat / 4096 = 1 ∧ w.toNat % 4096 / 2 ≠ 0) ∧
      (∀ w ∈ [(0x2200 : Word), 0x2FFF], w.toNat / 4096 = 2 ∧ w.toNat % 4096 / 512 ≠ 0) ∧
      ∀ w ∈ [(0x3000 : Word), 0xFFFF], 3 ≤ w.toNat / 4096 := by simp

theorem witness_NopChangesNothing :
    ∀ w ∈ [(0x0001 : Word), 0x0FFF], 1 ≤ w.toNat ∧ w.toNat ≤ 0x0FFF := by simp

theorem witness_StartBeginsAttempt : State.reset.regs.st = .idle ∧ endOfP1.regs.st = .done := by decide

theorem witness_StartRefusedWhileBusy :
    (busyAt 82 0 0 0).regs.st = .busy ∧
      (∃ t, runMove (.edge true false 0) (busyAt 5 0 0 0) = .next t ∧ t.regs.st ≠ .busy) ∧
      ∃ t, runMove (.edge false true 0x2100) (busyAt 5 0 0 0) = .next t ∧ t.regs.st ≠ .busy :=
  ⟨by decide, ⟨_, rfl, by decide⟩, ⟨_, rfl, by decide⟩⟩

/-- All three exits, and IDLE entered and kept. -/
theorem witness_DoneIsLeftByStartOrResetOnly :
    endOfP1.regs.st = .done ∧ (∃ t, runMove (.edge true true 0x1000) endOfP1 = .next t ∧ t.regs.st = .idle) ∧
      (∃ t, runMove (.edge false true 0x1000) endOfP1 = .next t ∧ t.regs.st = .busy) ∧
      (∃ t, runMove (.edge false true 0x2046) endOfP1 = .next t ∧ t.regs.err = true) ∧
      ∃ t, runMove (.edge false true 0x0000) State.reset = .next t ∧ t.regs.st = .idle :=
  ⟨by decide, ⟨_, rfl, by decide⟩, ⟨_, rfl, by decide⟩, ⟨_, rfl, by decide⟩, ⟨_, rfl, by decide⟩⟩

theorem witness_ModelIsFixedDuringAttempt :
    (busyAt 10 1 0 0).regs.st = .busy ∧ isResetMove (.edge false true 0x1001) = false ∧
      ∃ t, runMove (.edge false true 0x1001) (busyAt 10 1 0 0) = .next t :=
  ⟨by decide, by decide, ⟨_, rfl⟩⟩

theorem witness_SampleRefusedOutsideAttempt : State.reset.regs.st ≠ .busy ∧ endOfP1.regs.st ≠ .busy := by decide

/-- The flag alone, and a duration just over the threshold. -/
theorem witness_SampleTimeoutEndsAttempt :
    (busyAt 82 0x26 0x3200 0x1A00).regs.st = .busy ∧
      (busyAt 82 0x26 0x3200 0x1A00).params.timeoutUs.toNat < (91 : Byte).toNat := by decide

/-- The handshake, the first even index and the last one, at the largest duration that counts. -/
theorem witness_SampleAtEvenOrHandshakeIndexOnlyAdvances :
    ∀ c ∈ [(0 : Count), 2, 3, 81],
      (busyAt c 0 0 0).regs.st = .busy ∧ (90 : Byte).toNat ≤ (busyAt c 0 0 0).params.timeoutUs.toNat ∧
        ((c.toNat : Int) - 3 < 0 ∨ ((c.toNat : Int) - 3) % 2 = 0) := by decide

/-- The first odd index, the two snapshots and the last index. -/
theorem witness_SampleShiftsInTheDataBit :
    ∀ c ∈ [(4 : Count), 34, 66, 82],
      (busyAt c 0 0 0).regs.st = .busy ∧ (31 : Byte).toNat ≤ (busyAt c 0 0 0).params.timeoutUs.toNat ∧
        0 ≤ (c.toNat : Int) - 3 ∧ ((c.toNat : Int) - 3) % 2 = 1 := by decide

/-- Both neighbours of a snapshot, and the ends. -/
theorem witness_SampleAtPlainOddIndex :
    ∀ c ∈ [(4 : Count), 32, 36, 64, 68, 80],
      (busyAt c 0 0 0).regs.st = .busy ∧ (90 : Byte).toNat ≤ (busyAt c 0 0 0).params.timeoutUs.toNat ∧
        0 ≤ (c.toNat : Int) - 3 ∧ ((c.toNat : Int) - 3) % 2 = 1 ∧ c ≠ 34 ∧ c ≠ 66 ∧ c ≠ 82 := by decide

theorem witness_SampleTakesHumiditySnapshot :
    (busyAt 34 0x1900 0 0).regs.st = .busy ∧ (26 : Byte).toNat ≤ (busyAt 34 0x1900 0 0).params.timeoutUs.toNat ∧
      (busyAt 34 0x1900 0 0).regs.cnt = 34 := by decide

theorem witness_SampleTakesTemperatureSnapshot :
    (busyAt 66 0x0D00 0x3200 0).regs.st = .busy ∧
      (26 : Byte).toNat ≤ (busyAt 66 0x0D00 0x3200 0).params.timeoutUs.toNat ∧
      (busyAt 66 0x0D00 0x3200 0).regs.cnt = 66 := by decide

/-- S-19: the state meets the invariant too. -/
theorem witness_LastSampleChecksTheSum :
    (busyAt 82 0x26 0x3200 0x1A00).regs.st = .busy ∧
      (26 : Byte).toNat ≤ (busyAt 82 0x26 0x3200 0x1A00).params.timeoutUs.toNat ∧
      (busyAt 82 0x26 0x3200 0x1A00).regs.cnt = 82 ∧ (busyAt 82 0x26 0x3200 0x1A00).Inv := by
  unfold State.Inv Config.Legal
  decide

/-- A counted observation at the threshold, an accepted START, and a command that is neither. -/
theorem witness_OnlySamplesAdvanceTheCounter :
    (decodeCommand 0x205A = .ok (.sample false 90) ∧ (busyAt 4 0 0 0).regs.st = .busy ∧
        (90 : Byte).toNat ≤ (busyAt 4 0 0 0).params.timeoutUs.toNat ∧
        ∃ t, runCommand 0x205A (busyAt 4 0 0 0) = .next t) ∧
      (decodeCommand 0x1000 = .ok (.start .modelA) ∧ State.reset.regs.st ≠ .busy ∧
        ∃ t, runCommand 0x1000 State.reset = .next t) ∧
      decodeCommand 0x0000 = .ok .nop ∧ ∃ t, runCommand 0x0000 State.reset = .next t :=
  ⟨⟨by decide, by decide, by decide, ⟨_, rfl⟩⟩, ⟨by decide, by decide, ⟨_, rfl⟩⟩, by decide, ⟨_, rfl⟩⟩

/-- S-16 changes `acc` and `rt`, S-14 `rh`; S-19 changes VALID, in a state that meets the invariant. -/
theorem witness_SampleFrame :
    (∃ t, exec (.sample false 26) (busyAt 66 0x0D00 0x3200 0) = .next t ∧ t.regs.acc ≠ 0x0D00 ∧ t.regs.rt ≠ 0) ∧
      (∃ t, exec (.sample false 70) (busyAt 34 0x1900 0 0) = .next t ∧ t.regs.rh ≠ 0) ∧
      (busyAt 82 0x26 0x3200 0x1A00).Inv ∧
      ∃ t, exec (.sample false 26) (busyAt 82 0x26 0x3200 0x1A00) = .next t ∧
        t.regs.valid ≠ (busyAt 82 0x26 0x3200 0x1A00).regs.valid ∧ t.regs.st ≠ .busy := by
  refine ⟨⟨_, rfl, by decide⟩, ⟨_, rfl, by decide⟩, ?_, ⟨_, rfl, by decide⟩⟩
  unfold State.Inv Config.Legal
  decide

theorem onTime_replicate (n : Nat) (d : Byte) (h : d.toNat ≤ 90) : OnTime State.reset.params (List.replicate n d) := by
  intro x hx
  rw [List.eq_of_mem_replicate hx]
  exact h

theorem onTime_set : OnTime State.reset.params ((List.replicate 83 26).set 4 70) := by
  intro x hx
  rcases List.mem_or_eq_of_mem_set hx with h | h
  · exact onTime_replicate 83 26 (by decide) x h
  · rw [h]
    decide

theorem witness_AttemptAssemblesPayload :
    State.reset.regs.st ≠ .busy ∧ (List.replicate 83 (90 : Byte)).length = 83 ∧
      OnTime State.reset.params (List.replicate 83 90) :=
  ⟨by decide, by decide, onTime_replicate 83 90 (by decide)⟩

theorem witness_FrameDeliversItsPayload :
    endOfP1.regs.st ≠ .busy ∧ 80 ≤ endOfP1.params.timeoutUs.toNat ∧ 26 ≤ endOfP1.params.bitThresholdUs.toNat ∧
      endOfP1.params.bitThresholdUs.toNat < 70 := by decide

/-- The attempt that has seen `n` observations, all of them 0 bits. -/
def zeroAfter (n : Nat) : Regs :=
  { st := .busy, res := .none, model := .modelA, cnt := BitVec.ofNat 7 n, acc := 0, rh := 0, rt := 0, err := false }

theorem test_zero_bit_advances :
    ∀ n < 82, (zeroAfter n).observe Config.defaultParams 26 = zeroAfter (n + 1) := by decide

theorem test_last_zero_bit_is_ok : ((zeroAfter 82).observe Config.defaultParams 26).res = .ok := by decide

theorem zero_bits_observed (n : Nat) (h : n ≤ 82) :
    (zeroAfter 0).observes Config.defaultParams (List.replicate n 26) = zeroAfter n := by
  induction n with
  | zero => rfl
  | succ n ih =>
    rw [List.replicate_succ', Regs.observes_append, ih (by omega), Regs.observes_cons, Regs.observes_nil,
      test_zero_bit_advances n (by omega)]

theorem zero_attempt_is_ok :
    (State.reset.afterMoves (startMove .modelA :: sampleMoves (List.replicate 83 26))).regs.res = .ok := by
  have h := State.afterMoves_samples (State.reset.withRegs (zeroAfter 0)) (List.replicate 83 26) rfl
    (onTime_replicate 83 26 (by decide)) (by decide)
  have hs : State.reset.afterMove (startMove .modelA) = State.reset.withRegs (zeroAfter 0) := State.afterMove_start _ _
  have hp : (State.reset.withRegs (zeroAfter 0)).params = Config.defaultParams := rfl
  rw [State.afterMoves_cons, hs, h, State.withRegs_regs, hp, State.withRegs_regs, List.replicate_succ',
    Regs.observes_append, zero_bits_observed 82 (by decide), Regs.observes_cons, Regs.observes_nil]
  exact test_last_zero_bit_is_ok

theorem other_bytes_same :
    ∀ j < 5, j ≠ 0 → wireByte State.reset.params ((List.replicate 83 26).set 4 70) j =
      wireByte State.reset.params (List.replicate 83 26) j := by decide

theorem first_byte_differs :
    wireByte State.reset.params ((List.replicate 83 26).set 4 70) 0 ≠
      wireByte State.reset.params (List.replicate 83 26) 0 := by decide

/-- All-zero payloads but for one bit, of the first byte. -/
theorem witness_SingleByteCorruptionIsCaught :
    State.reset.regs.st ≠ .busy ∧ (List.replicate 83 (26 : Byte)).length = 83 ∧
      ((List.replicate 83 (26 : Byte)).set 4 70).length = 83 ∧ OnTime State.reset.params (List.replicate 83 26) ∧
      OnTime State.reset.params ((List.replicate 83 26).set 4 70) ∧
      (∀ j < 5, j ≠ 0 → wireByte State.reset.params ((List.replicate 83 26).set 4 70) j =
        wireByte State.reset.params (List.replicate 83 26) j) ∧
      wireByte State.reset.params ((List.replicate 83 26).set 4 70) 0 ≠
        wireByte State.reset.params (List.replicate 83 26) 0 ∧
      (∃ t, Host.Core.run Sys2Proof.core 84
          (State.reset.withMoves (startMove .modelA :: sampleMoves (List.replicate 83 26))) = .next t ∧
        t.regs.res = .ok) ∧
      ∃ s', Host.Core.run Sys2Proof.core 84
        (State.reset.withMoves (startMove .modelA :: sampleMoves ((List.replicate 83 26).set 4 70))) = .next s' := by
  have h1 := run_moves (startMove .modelA :: sampleMoves (List.replicate 83 26)) [] State.reset
  have h2 := run_moves (startMove .modelA :: sampleMoves ((List.replicate 83 26).set 4 70)) [] State.reset
  have l1 : (startMove .modelA :: sampleMoves (List.replicate 83 26)).length = 84 := by simp [sampleMoves]
  have l2 : (startMove .modelA :: sampleMoves ((List.replicate 83 26).set 4 70)).length = 84 := by simp [sampleMoves]
  rw [List.append_nil, l1] at h1
  rw [List.append_nil, l2] at h2
  exact ⟨by decide, by decide, by decide, onTime_replicate 83 26 (by decide), onTime_set, other_bytes_same,
    first_byte_differs, ⟨_, h1, (congrArg Regs.res (State.withMoves_regs _ _)).trans zero_attempt_is_ok⟩, ⟨_, h2⟩⟩

/-- The longest list before the timeout, and the shortest, by the flag and by the duration. -/
theorem witness_TimeoutAtEveryPosition :
    State.reset.regs.st ≠ .busy ∧ (List.replicate 82 (90 : Byte)).length ≤ 82 ∧ ([] : List Byte).length ≤ 82 ∧
      OnTime State.reset.params (List.replicate 82 90) ∧ OnTime State.reset.params [] ∧
      State.reset.params.timeoutUs.toNat < (91 : Byte).toNat :=
  ⟨by decide, by decide, by decide, onTime_replicate 82 90 (by decide), onTime_replicate 0 90 (by decide), by decide⟩

theorem witness_OtherDurationsDoNotMatter :
    ([0, 70, 3] : List Byte).length = ([90, 70, 5] : List Byte).length ∧
      OnTime (busyAt 3 0 0 0).params [0, 70, 3] ∧ OnTime (busyAt 3 0 0 0).params [90, 70, 5] ∧
      (busyAt 3 0 0 0).regs.st = .busy ∧
      (∀ j : Nat, 4 ≤ (busyAt 3 0 0 0).regs.cnt.toNat + j → ((busyAt 3 0 0 0).regs.cnt.toNat + j) % 2 = 0 →
        ([0, 70, 3] : List Byte).getD j 0 = ([90, 70, 5] : List Byte).getD j 0) ∧
      (busyAt 3 0 0 0).regs.cnt.toNat + ([0, 70, 3] : List Byte).length ≤ 83 := by
  refine ⟨by decide, by unfold OnTime; decide, by unfold OnTime; decide, by decide, ?_, by decide⟩
  intro j h1 h2
  have h3 : (busyAt 3 0 0 0).regs.cnt.toNat = 3 := by decide
  rw [h3] at h1 h2
  match j with
  | 0 => omega
  | 1 => rfl
  | 2 => omega
  | _ + 3 => rfl

/-- One observation short of the end, a NOP before the last SAMPLE. -/
theorem witness_AttemptEndsWithinItsSamples :
    (busyAt 82 0x26 0x3200 0x1A00).Inv ∧ (busyAt 82 0x26 0x3200 0x1A00).regs.st = .busy ∧
      83 - (busyAt 82 0x26 0x3200 0x1A00).regs.cnt.toNat ≤
        [HostMove.edge false true 0, sampleMove false 26].countP isSampleMove := by
  unfold State.Inv Config.Legal
  decide

/-- Both phases a list can end in: inside an attempt, and after one that a timeout ended. -/
theorem witness_DutifulHostIsNeverRefused :
    dutifulPhase State.reset.params .powerUp [.edge true false 0, startMove .modelA, .read 0, sampleMove false 80] =
        some (.attempt 1) ∧
      dutifulPhase State.reset.params .powerUp [.edge true false 0, startMove .modelA, sampleMove true 0] =
        some .ready ∧
      HostPhase.attempt 1 ≠ .powerUp ∧ HostPhase.ready ≠ .powerUp := by decide

theorem witness_ResultIsFinalUntilStart :
    endOfP1.regs.st = .done ∧
      ∀ mv ∈ [HostMove.edge false true 0x2046, .read 5, .edge false false 0x1000],
        isStartMove mv = false ∧ isResetMove mv = false := by decide

theorem witness_SumReadsTheByteSum :
    (busyAt 34 0x1900 0 0).Inv ∧ (busyAt 34 0x1900 0 0).regs.cnt.toNat ≤ 34 ∧ (busyAt 66 0x0D00 0x3200 0).Inv ∧
      (busyAt 66 0x0D00 0x3200 0).regs.cnt.toNat ≤ 66 :=
  ⟨by unfold State.Inv Config.Legal; decide, by decide, by unfold State.Inv Config.Legal; decide, by decide⟩

theorem witness_ReadingsAreGatedByValid :
    endOfP1.regs.st ≠ .busy ∧ ∃ t, exec (.start .modelA) endOfP1 = .next t :=
  ⟨by decide, ⟨_, rfl⟩⟩

theorem witness_ParamsReadsTheThresholds :
    State.reset.params = ⟨90, 30⟩ ∧ ∃ t, step (State.reset.withFetchWord 16 0x1000) = .next t :=
  ⟨by decide, ⟨_, rfl⟩⟩

/-- DEC-3 and DEC-11. -/
theorem witness_TempNegIsTheReceivedSign :
    ((doneWith .ok .modelA 0x80 0 0x0080).regs.res = .ok ∧ tmag .modelA 0x0080 = 0 ∧ tneg .modelA 0x0080 = true) ∧
      (doneWith .ok .modelB 0x80 0 0x8000).regs.res = .ok ∧ tmag .modelB 0x8000 = 0 ∧ tneg .modelB 0x8000 = true := by
  decide

theorem witness_DecodedValuesStayInRange : (doneWith .ok .modelA 0xFC 0xFFFF 0xFFFF).regs.model = .modelA := by decide

/-- Both models, with the sign set and clear. -/
theorem witness_DecodedValuesAreTheSourceFormulas :
    ∀ m ∈ [SensorModel.modelA, .modelB], ∀ rt ∈ [(0x0A85 : Word), 0x8019],
      (doneWith .ok m 0 0x01F4 rt).regs.res = .ok := by simp [doneWith, State.withRegs]

/-- Pairs of different states that read alike at one address, and a pair that reads alike at all. -/
theorem witness_ReadPortExposesEveryElement :
    endOfP1.readPort 0 = (doneWith .ok .modelA 1 2 3).readPort 0 ∧
      endOfP1.readPort 1 = (busyAt 35 0x3200 0x3200 0).readPort 1 ∧
      endOfP1.readPort 2 = (busyAt 67 0 0x3200 0x1A00).readPort 2 ∧
      endOfP1.readPort 3 = (doneWith .checksum .modelB 0x4C 0 0).readPort 3 ∧
      ∀ a : ReadAddr, endOfP1.readPort a = (endOfP1.withMoves [.read 0]).readPort a := by decide

theorem witness_ReadsChangeNothing :
    (endOfP1.take 0 0x5322).regs = endOfP1.regs ∧ (endOfP1.take 0 0x5322).params = endOfP1.params := by decide

theorem witness_ReadSeesEarlierCommandsOnly : ∃ t, runCommand 0x1000 (endOfP1.withMoves []) = .next t := ⟨_, rfl⟩

/-- The three causes, a command that is none of them, and a move while `err` is set. -/
theorem witness_RefusedExactlyInThreeCases :
    decodeCommand 0x3000 = .error .illegalOp ∧
      (decodeCommand 0x1000 = .ok (.start .modelA) ∧ (busyAt 10 1 0 0).regs.st = .busy) ∧
      (decodeCommand 0x2046 = .ok (.sample false 70) ∧ endOfP1.regs.st ≠ .busy) ∧
      (decodeCommand 0x2046 = .ok (.sample false 70) ∧ (busyAt 10 1 0 0).regs.st = .busy) ∧
      endOfP1.refuse.regs.err = true ∧ ∃ t, runMove (.edge false true 0) endOfP1.refuse = .next t :=
  ⟨by decide, by decide, by decide, by decide, by decide, ⟨_, rfl⟩⟩

/-- `err` cleared by a reset and by a START, and set by a refusal. -/
theorem witness_ErrIsSticky :
    endOfP1.refuse.regs.err = true ∧
      (∃ t, runMove (.edge true false 0) endOfP1.refuse = .next t ∧ t.regs.err = false) ∧
      (∃ t, runMove (.edge false true 0x1000) endOfP1.refuse = .next t ∧ t.regs.err = false) ∧
      (isStartMove (.edge false true 0x1000) = true ∧ endOfP1.refuse.regs.st ≠ .busy) ∧
      (isSampleMove (.edge false true 0x2046) = true ∧ endOfP1.regs.st ≠ .busy) ∧
      ∃ t, runMove (.edge false true 0x2046) endOfP1 = .next t :=
  ⟨by decide, ⟨_, rfl, by decide⟩, ⟨_, rfl, by decide⟩, by decide, by decide, ⟨_, rfl⟩⟩

/-- `done` rises at the last SAMPLE, and falls at a START. -/
theorem witness_DoneFollowsTheAttempt :
    (busyAt 82 0x26 0x3200 0x1A00).done = false ∧
      (∃ t, runMove (sampleMove false 26) (busyAt 82 0x26 0x3200 0x1A00) = .next t ∧ t.done = true) ∧
      endOfP1.done = true ∧ ∃ t, runMove (startMove .modelA) endOfP1 = .next t ∧ t.done = false :=
  ⟨by decide, ⟨_, rfl, by decide⟩, by decide, ⟨_, rfl, by decide⟩⟩

theorem witness_ResetEdgeGivesTheResetState :
    (busyAt 50 3 4 0).regs.st = .busy ∧ isResetMove (.edge false true 0x2100) = false ∧
      ∃ t, runMove (.edge false true 0x2100) (busyAt 50 3 4 0) = .next t :=
  ⟨by decide, by decide, ⟨_, rfl⟩⟩

/-- A state of other parameters with the reset table's registers. -/
theorem witness_ResetTableAndReadings :
    (State.mk Regs.reset ⟨255, 254⟩ [] []).regs = State.reset.regs ∧ endOfP1.params = Config.defaultParams := by decide

theorem witness_ParametersNeverChange :
    (∃ t, step (endOfP1.withFetchWord 16 0x1000) = .next t) ∧ ∃ t, runEdge true false 0 endOfP1 = .next t :=
  ⟨⟨_, rfl⟩, ⟨_, rfl⟩⟩

/-- The ends of the ranges, and one pair outside each of them. -/
theorem witness_ElaborationAcceptsTheRanges :
    (1 ≤ 255 ∧ 255 ≤ 255 ∧ 254 ≤ 254 ∧ 254 < 255) ∧ (1 ≤ 1 ∧ 1 ≤ 255 ∧ 0 ≤ 254 ∧ 0 < 1) ∧
      Config.elaborate 0 0 = none ∧ Config.elaborate 256 30 = none ∧ Config.elaborate 255 255 = none ∧
      Config.elaborate 90 90 = none := by decide

theorem witness_StepRunsTheDecodedInstruction :
    (endOfP1.withMoves [portMove (.readAddr 6), portMove (.command 0x1000)]).moves =
        portMove (.readAddr 6) :: [portMove (.command 0x1000)] ∧
      decode (.readAddr 6) = .ok .rdTempDeci ∧
      (endOfP1.withMoves [portMove (.command 0x3000)]).moves = portMove (.command 0x3000) :: [] ∧
      decode (.command 0x3000) = .error .illegalOp ∧ State.reset.moves = [] := by decide

theorem witness_PlacedWordRunsNext :
    decodeTableWord 16 0x1001 = some (.start .modelB) ∧ decodeTableWord 8 7 = some .rdParams := by decide

theorem witness_StepKeepsTheInvariant :
    ((busyAt 66 0x0D00 0x3200 0).withFetchWord 16 0x201A).Inv ∧
      ∃ t, step ((busyAt 66 0x0D00 0x3200 0).withFetchWord 16 0x201A) = .next t := by
  refine ⟨?_, ⟨_, rfl⟩⟩
  unfold State.Inv Config.Legal
  decide

/-- A state one step after reset. -/
theorem witness_ReachableStatesMeetTheInvariants :
    ∃ s, Reachable s ∧ s.regs.st = .busy :=
  ⟨_, .step _ _ (.reset Config.defaultParams [startMove .modelA] (by unfold Config.Legal; decide)) rfl, by decide⟩

theorem witness_TimeoutFlagIsRedundant : State.reset.params.timeoutUs.toNat < 255 := by decide

/-- Entry 12: at TIMEOUT_US = 255 a saturated report needs the flag. -/
theorem test_flag_needed_at_255 : timedOut ⟨255, 30⟩ false 255 = false ∧ timedOut ⟨255, 30⟩ true 255 = true := by
  decide

end Sys2Proof.Tests
end

section
/-! SUPPORT. Elaboration with the two thresholds of R8, and the statement about its ranges. -/

namespace Sys2Proof.Config

/-- A pair inside the ranges of R8 elaborates to those two bytes. -/
theorem elaborate_of_inRange {t b : Nat} (h : 1 ≤ t ∧ t ≤ 255 ∧ b ≤ 254 ∧ b < t) :
    elaborate t b = some ⟨BitVec.ofNat 8 t, BitVec.ofNat 8 b⟩ := if_pos h

/-- A pair outside the ranges of R8 is refused (D10). -/
theorem elaborate_of_not_inRange {t b : Nat} (h : ¬(1 ≤ t ∧ t ≤ 255 ∧ b ≤ 254 ∧ b < t)) :
    elaborate t b = none := if_neg h

/-- A number up to 255 is kept whole in a byte: the ranges of R8 lose nothing to the width of R101. -/
theorem toNat_byte_of_le {n : Nat} (h : n ≤ 255) : (BitVec.ofNat 8 n).toNat = n :=
  Nat.mod_eq_of_lt (Nat.lt_succ_of_le h)

end Sys2Proof.Config

open Sys2Proof Sys2Proof.Config

/-- Settles O54: inside the ranges both numbers fit a byte, so the parameters hold them unchanged and are legal. -/
theorem elaborationAcceptsTheRanges : Obligations.ElaborationAcceptsTheRanges := by
  refine ⟨fun t b => ⟨fun h => ?_, elaborate_of_not_inRange⟩, elaborate_of_inRange (by decide)⟩
  obtain ⟨ht1, ht, hb, hbt⟩ := h
  have timeout_eq : (BitVec.ofNat 8 t).toNat = t := toNat_byte_of_le ht
  have bitThreshold_eq : (BitVec.ofNat 8 b).toNat = b := toNat_byte_of_le (by omega)
  refine ⟨_, elaborate_of_inRange ⟨ht1, ht, hb, hbt⟩, timeout_eq, bitThreshold_eq, ?_⟩
  simp only [Legal, timeout_eq, bitThreshold_eq]
  exact ⟨ht1, hb, hbt⟩
end

section
/-! SUPPORT. The read port seen from outside: what each address reads, and what a reading tells about the state
behind it (R30, R31). -/

namespace Sys2Proof.Machine

/-- Address 7 reads the two thresholds (R101). -/
theorem State.readPort_params (s : State) : s.readPort 7 = s.params.timeoutUs ++ s.params.bitThresholdUs := rfl

/-! The codes that STATUS packs: their ranges, and that none of them is shared (R14 to R16). -/

theorem SeqState.code_toNat_lt (st : SeqState) : st.code.toNat < 4 := by cases st <;> decide
theorem Result.code_toNat_lt (res : Result) : res.code.toNat < 4 := by cases res <;> decide
theorem modelBit_toNat_lt (m : SensorModel) : (modelBit m).toNat < 2 := by cases m <;> decide
theorem flagBit_toNat_lt (b : Bool) : (flagBit b).toNat < 2 := by cases b <;> decide

theorem SeqState.code_injective : Function.Injective SeqState.code :=
  fun a b => by cases a <;> cases b <;> decide
theorem Result.code_injective : Function.Injective Result.code :=
  fun a b => by cases a <;> cases b <;> decide
theorem modelBit_injective : Function.Injective modelBit :=
  fun a b => by cases a <;> cases b <;> decide
theorem flagBit_injective : Function.Injective flagBit := by decide

/-- A field placed above all bits in use adds its multiple of the place value. -/
theorem toNat_or_shiftLeft {a b : Word} {k n : Nat} (ha : a.toNat = n) (hn : n < 2 ^ k)
    (hb : 2 ^ k * b.toNat < 2 ^ 16) : (a ||| b <<< k).toNat = n + 2 ^ k * b.toNat := by
  rw [BitVec.toNat_or, BitVec.toNat_shiftLeft, Nat.shiftLeft_eq, Nat.mul_comm, Nat.mod_eq_of_lt hb, Nat.or_comm, ha,
    ← Nat.two_pow_add_eq_or_of_lt hn, Nat.add_comm]

/-- The fields of STATUS do not overlap, so the state elements are digits of its number (R100). -/
theorem Regs.statusWord_fields (r : Regs) :
    r.st.code.toNat = r.statusWord.toNat % 4 ∧ r.res.code.toNat = r.statusWord.toNat / 4 % 4 ∧
      (modelBit r.model).toNat = r.statusWord.toNat / 16 % 2 ∧
      (flagBit r.err).toNat = r.statusWord.toNat / 128 % 2 ∧ r.cnt.toNat = r.statusWord.toNat / 256 := by
  have hst := r.st.code_toNat_lt
  have hres := r.res.code_toNat_lt
  have hmodel := modelBit_toNat_lt r.model
  have hvalid := flagBit_toNat_lt r.valid
  have htempNeg := flagBit_toNat_lt r.tempNeg
  have herr := flagBit_toNat_lt r.err
  have hcnt : (BitVec.setWidth 16 r.cnt).toNat = r.cnt.toNat := BitVec.toNat_setWidth_of_le (by decide)
  have hcnt_lt := r.cnt.isLt
  have hword : r.statusWord.toNat =
      r.st.code.toNat + 2 ^ 2 * r.res.code.toNat + 2 ^ 4 * (modelBit r.model).toNat +
        2 ^ 5 * (flagBit r.valid).toNat + 2 ^ 6 * (flagBit r.tempNeg).toNat + 2 ^ 7 * (flagBit r.err).toNat +
        2 ^ 8 * (BitVec.setWidth 16 r.cnt).toNat := by
    refine toNat_or_shiftLeft (toNat_or_shiftLeft (toNat_or_shiftLeft (toNat_or_shiftLeft (toNat_or_shiftLeft
      (toNat_or_shiftLeft rfl ?_ ?_) ?_ ?_) ?_ ?_) ?_ ?_) ?_ ?_) ?_ ?_ <;> omega
  omega

/-- Two register files with the same STATUS agree on the five elements that it packs (R30). -/
theorem Regs.eq_of_statusWord_eq {r q : Regs} (h : r.statusWord = q.statusWord) :
    r.st = q.st ∧ r.res = q.res ∧ r.model = q.model ∧ r.cnt = q.cnt ∧ r.err = q.err := by
  obtain ⟨hst, hres, hmodel, herr, hcnt⟩ := r.statusWord_fields
  rw [h] at hst hres hmodel herr hcnt
  obtain ⟨hst', hres', hmodel', herr', hcnt'⟩ := q.statusWord_fields
  exact ⟨SeqState.code_injective (BitVec.eq_of_toNat_eq (hst.trans hst'.symm)),
    Result.code_injective (BitVec.eq_of_toNat_eq (hres.trans hres'.symm)),
    modelBit_injective (BitVec.eq_of_toNat_eq (hmodel.trans hmodel'.symm)),
    BitVec.eq_of_toNat_eq (hcnt.trans hcnt'.symm),
    flagBit_injective (BitVec.eq_of_toNat_eq (herr.trans herr'.symm))⟩

/-- PARAMS holds both thresholds whole (R101). -/
theorem paramsWord_injective : Function.Injective paramsWord := by
  intro p q h
  have timeout_eq := congrArg (BitVec.extractLsb' 8 8) h
  have bitThreshold_eq := congrArg (BitVec.extractLsb' 0 8) h
  simp only [paramsWord, BitVec.extractLsb'_append_eq_left, BitVec.extractLsb'_append_eq_right]
    at timeout_eq bitThreshold_eq
  cases p; cases q; simp_all

/-- Two register files with the same eight elements are the same. -/
theorem Regs.ext_parts {r q : Regs} (hst : r.st = q.st) (hres : r.res = q.res) (hmodel : r.model = q.model)
    (hcnt : r.cnt = q.cnt) (hacc : r.acc = q.acc) (hrh : r.rh = q.rh) (hrt : r.rt = q.rt) (herr : r.err = q.err) :
    r = q := by
  cases r; cases q; simp_all

end Sys2Proof.Machine

open Sys2Proof Sys2Proof.Machine

/-- Settles O42: the fields of STATUS do not overlap and their codes are injective; `rh`, `rt`, `acc` and the
parameters are read as they are. -/
theorem readPortExposesEveryElement : Obligations.ReadPortExposesEveryElement := by
  intro s t
  refine ⟨Regs.eq_of_statusWord_eq, id, id, id, fun h => ?_⟩
  obtain ⟨hst, hres, hmodel, hcnt, herr⟩ := Regs.eq_of_statusWord_eq (h 0)
  exact ⟨Regs.ext_parts hst hres hmodel hcnt (h 3) (h 1) (h 2) herr, paramsWord_injective (h 7)⟩

/-- Settles O50: every reading is computed from the registers of the reset table; PARAMS reads the parameters. -/
theorem resetTableAndReadings : Obligations.ResetTableAndReadings := by
  refine ⟨rfl, fun s hs => ?_, fun s hp => ?_⟩
  · have regs_reset : s.regs = Regs.reset := hs
    simp only [State.readPort, regs_reset]
    exact ⟨rfl, rfl, rfl, rfl, rfl, rfl, rfl, s.readPort_params⟩
  · rw [s.readPort_params, hp]
    rfl

end

section
/-! SUPPORT. What a move of the host can do to the registers, by the kind of move, and what START and SAMPLE do to
`st` and `err`; with the statements about edges, the parameters, `err` and `done` that follow. -/

namespace Sys2Proof.Machine

/-- The inversion lemma of a move: the only state it answers. -/
theorem eq_afterMove_of_runMove {mv : HostMove} {s t : State} (h : runMove mv s = .next t) : t = s.afterMove mv := by
  rw [runMove_eq] at h
  cases h
  rfl

/-! A move by its kind. -/

theorem Regs.afterMove_of_isResetMove {mv : HostMove} (h : isResetMove mv = true) (r : Regs) (p : Params) :
    r.afterMove p mv = Regs.reset := by
  unfold isResetMove at h
  split at h
  · rfl
  · cases h

theorem Regs.afterMove_of_isStartMove {mv : HostMove} (h : isStartMove mv = true) (r : Regs) (p : Params) :
    ∃ m, r.afterMove p mv = r.start m := by
  unfold isStartMove at h
  split at h
  · split at h
    · exact ⟨_, r.command_start p ‹_›⟩
    · cases h
  · cases h

theorem Regs.afterMove_of_isSampleMove {mv : HostMove} (h : isSampleMove mv = true) (r : Regs) (p : Params) :
    ∃ t d, r.afterMove p mv = r.sample p t d := by
  unfold isSampleMove at h
  split at h
  · split at h
    · exact ⟨_, _, r.command_sample p ‹_›⟩
    · cases h
  · cases h

/-- Every move is a reset, a START, a SAMPLE, or one that leaves the registers or only refuses (R28, R64). -/
theorem Regs.afterMove_cases (r : Regs) (p : Params) (mv : HostMove) :
    (isResetMove mv = true ∧ r.afterMove p mv = Regs.reset) ∨
      (isStartMove mv = true ∧ ∃ m, r.afterMove p mv = r.start m) ∨
      (isSampleMove mv = true ∧ ∃ t d, r.afterMove p mv = r.sample p t d) ∨
      r.afterMove p mv = r ∨ r.afterMove p mv = r.refuse := by
  match mv with
  | .read _ => exact .inr (.inr (.inr (.inl rfl)))
  | .edge true _ _ => exact .inl ⟨rfl, rfl⟩
  | .edge false false _ => exact .inr (.inr (.inr (.inl rfl)))
  | .edge false true w =>
    rcases r.command_cases p w with ⟨-, h⟩ | ⟨m, hw, h⟩ | ⟨t, d, hw, h⟩ | ⟨-, -, h⟩
    · exact .inr (.inr (.inr (.inl h)))
    · exact .inr (.inl ⟨by simp only [isStartMove, hw], m, h⟩)
    · exact .inr (.inr (.inl ⟨by simp only [isSampleMove, hw], t, d, h⟩))
    · exact .inr (.inr (.inr (.inr h)))

/-- After a START, the validator is in BUSY, accepted or refused (R69, R70). -/
@[simp] theorem Regs.start_st (r : Regs) (m : SensorModel) : (r.start m).st = .busy := by
  by_cases hb : r.st = .busy
  · rw [Regs.start_busy m hb, Regs.refuse_st, hb]
  · rw [Regs.start_accepted m hb, Regs.beginAttempt_st]

/-- SAMPLE never clears `err` (R21). -/
theorem Regs.sample_keeps_err {r : Regs} (h : r.err = true) (p : Params) (t : Bool) (d : Byte) :
    (r.sample p t d).err = true := by
  by_cases hb : r.st = .busy
  · cases ht : timedOut p t d
    · rw [Regs.sample_observed hb ht, Regs.observe_err, h]
    · rw [Regs.sample_timedOut hb ht, Regs.endAttempt_err, h]
  · rw [Regs.sample_refused p t d hb, Regs.refuse_err]

/-- What a move can do to `st`: reset gives IDLE, START gives BUSY, a SAMPLE has an effect in BUSY only, and every
other move keeps it (R28, R69, R70, R74). -/
theorem Regs.afterMove_st_cases (r : Regs) (p : Params) (mv : HostMove) :
    (isResetMove mv = true ∧ (r.afterMove p mv).st = .idle) ∨
      (isStartMove mv = true ∧ (r.afterMove p mv).st = .busy) ∨
      (isSampleMove mv = true ∧ r.st = .busy) ∨ (r.afterMove p mv).st = r.st := by
  rcases r.afterMove_cases p mv with ⟨hr, e⟩ | ⟨hs, m, e⟩ | ⟨hs, t, d, e⟩ | e | e
  · exact .inl ⟨hr, congrArg Regs.st e⟩
  · exact .inr (.inl ⟨hs, by rw [e, Regs.start_st]⟩)
  · by_cases hb : r.st = .busy
    · exact .inr (.inr (.inl ⟨hs, hb⟩))
    · exact .inr (.inr (.inr (by rw [e, Regs.sample_refused p t d hb, Regs.refuse_st])))
  · exact .inr (.inr (.inr (congrArg Regs.st e)))
  · exact .inr (.inr (.inr (by rw [e, Regs.refuse_st])))

theorem State.done_iff (s : State) : s.done = true ↔ s.regs.st = .done := beq_iff_eq

end Sys2Proof.Machine

open Sys2Proof Sys2Proof.Machine

/-- Settles O51: the three branches of `runEdge`, in its order. -/
theorem edgePriority : Obligations.EdgePriority := fun _ _ _ => ⟨rfl, rfl, rfl⟩

/-- Settles O53: a step is idle or one move, and `State.afterMove` keeps the parameters; a reset edge is such a
move. -/
theorem parametersNeverChange : Obligations.ParametersNeverChange := by
  have step_keeps : ∀ s t : State, step s = .next t → t.params = s.params := by
    intro s t h
    obtain ⟨-, rfl⟩ | ⟨m, rest, -, rfl⟩ := step_cases h
    · rfl
    · rw [State.withMoves_params, State.afterMove_params]
  refine ⟨fun s t h => ⟨step_keeps s t h, ?_⟩, fun v w s t h => ?_, State.readPort_params⟩
  · rw [State.readPort_params, State.readPort_params, step_keeps s t h]
  · rw [eq_afterMove_of_runMove (mv := .edge true v w) h, State.afterMove_params]

/-- Settles O47: of all moves only reset and an accepted START write `err` to 0, and every refusal writes it to 1. -/
theorem errIsSticky : Obligations.ErrIsSticky := by
  intro mv s t h
  obtain rfl := eq_afterMove_of_runMove h
  rw [State.afterMove_regs]
  refine ⟨fun hset hclear => ?_, ?_, ?_⟩
  · rcases s.regs.afterMove_cases s.params mv with ⟨hr, -⟩ | ⟨hs, m, e⟩ | ⟨-, f, d, e⟩ | e | e
    · exact .inl hr
    · refine .inr ⟨hs, fun hb => ?_⟩
      simp [e, Regs.start_busy m hb] at hclear
    · simp [e, Regs.sample_keeps_err hset] at hclear
    · simp [e, hset] at hclear
    · simp [e] at hclear
  · rintro (hr | ⟨hs, hb⟩)
    · rw [Regs.afterMove_of_isResetMove hr]
      rfl
    · obtain ⟨m, e⟩ := Regs.afterMove_of_isStartMove hs s.regs s.params
      rw [e, Regs.start_accepted m hb, Regs.beginAttempt_err]
  · rintro w rfl (⟨k, hw⟩ | ⟨hs, hb⟩ | ⟨hs, hb⟩)
    · exact congrArg Regs.err (s.regs.command_illegal s.params hw)
    · obtain ⟨m, e⟩ := Regs.afterMove_of_isStartMove hs s.regs s.params
      rw [e, Regs.start_busy m hb, Regs.refuse_err]
    · obtain ⟨f, d, e⟩ := Regs.afterMove_of_isSampleMove hs s.regs s.params
      rw [e, Regs.sample_refused s.params f d hb, Regs.refuse_err]

/-- Settles O48: into DONE leads only a SAMPLE in BUSY, and in DONE every move but START and reset keeps `st`. -/
theorem doneFollowsTheAttempt : Obligations.DoneFollowsTheAttempt := by
  refine ⟨State.done_iff, fun mv s t h => ?_⟩
  obtain rfl := eq_afterMove_of_runMove h
  simp only [← Bool.not_eq_true, State.done_iff, State.afterMove_regs]
  refine ⟨fun hlow hhigh => ?_, fun hhigh => ⟨fun hlow => ?_, ?_⟩⟩
  · rcases s.regs.afterMove_st_cases s.params mv with ⟨-, e⟩ | ⟨-, e⟩ | hsample | e
    · simp [e] at hhigh
    · simp [e] at hhigh
    · exact hsample
    · exact absurd (e.symm.trans hhigh) hlow
  · rcases s.regs.afterMove_st_cases s.params mv with ⟨hr, -⟩ | ⟨hs, -⟩ | ⟨-, hb⟩ | e
    · exact .inr hr
    · exact .inl hs
    · simp [hb] at hhigh
    · exact absurd (e.trans hhigh) hlow
  · rintro (hs | hr)
    · obtain ⟨m, e⟩ := Regs.afterMove_of_isStartMove hs s.regs s.params
      simp [e]
    · simp [Regs.afterMove_of_isResetMove hr, Regs.reset]

end

section
/-! SUPPORT. The decoder as three disjoint patterns and the rest (R52, R57), and what presenting a word of each kind
does (R64); with the statements about the command patterns, the reserved bits and Exec. -/

namespace Sys2Proof

/-- The NOP pattern of R52 as a number. -/
theorem nop_pattern_iff (w : Word) : w &&& 0xFFFF#16 = 0x0000#16 ↔ w.toNat = 0 := by
  rw [show (0xFFFF#16 : Word) = BitVec.allOnes 16 from rfl, BitVec.and_allOnes, ← BitVec.toNat_inj]
  rfl

/-- A word with none of the three patterns is illegal (R57). -/
theorem decodeCommand_illegal_of_no_pattern {w : Word}
    (h : w.toNat ≠ 0 ∧ w.toNat / 2 ≠ 0x800 ∧ w.toNat / 512 ≠ 0x10) : ∃ k, decodeCommand w = .error k := by
  obtain ⟨hnop, hstart, hsample⟩ := h
  exact ⟨_, by rw [decodeCommand_by_number, if_neg hnop, if_neg hstart, if_neg hsample]⟩

/-- Every word is of one of the four kinds, each with its range of numbers (R52, R57). -/
theorem decodeCommand_range_cases (w : Word) :
    (w.toNat = 0 ∧ decodeCommand w = .ok .nop) ∨
      (w.toNat / 2 = 0x800 ∧ decodeCommand w = .ok (.start (modelField w))) ∨
      (w.toNat / 512 = 0x10 ∧ decodeCommand w = .ok (.sample (timeoutField w) (durationField w))) ∨
      ((w.toNat ≠ 0 ∧ w.toNat / 2 ≠ 0x800 ∧ w.toNat / 512 ≠ 0x10) ∧ ∃ k, decodeCommand w = .error k) := by
  have hnumber := decodeCommand_by_number w
  by_cases hnop : w.toNat = 0
  · exact .inl ⟨hnop, hnumber.trans (if_pos hnop)⟩
  rw [if_neg hnop] at hnumber
  by_cases hstart : w.toNat / 2 = 0x800
  · exact .inr (.inl ⟨hstart, hnumber.trans (if_pos hstart)⟩)
  rw [if_neg hstart] at hnumber
  by_cases hsample : w.toNat / 512 = 0x10
  · exact .inr (.inr (.inl ⟨hsample, hnumber.trans (if_pos hsample)⟩))
  have hnone := And.intro hnop (And.intro hstart hsample)
  exact .inr (.inr (.inr ⟨hnone, decodeCommand_illegal_of_no_pattern hnone⟩))

end Sys2Proof

namespace Sys2Proof.Machine

/-- Presenting a legal word runs its instruction (R64). -/
theorem runCommand_of_legal {w : Word} {i : Instr} (h : decodeCommand w = .ok i) (s : State) :
    runCommand w s = exec i s := by
  simp only [runCommand, decode, h]

/-- Presenting an illegal word is refused (R57, R64). -/
theorem runCommand_of_illegal {w : Word} {k : IllegalWord} (h : decodeCommand w = .error k) (s : State) :
    runCommand w s = .next s.refuse := by
  simp only [runCommand, decode, h]

end Sys2Proof.Machine

open Sys2Proof Sys2Proof.Machine

/-- Settles O3: the masks are ranges of numbers that exclude each other, and a word decodes by the range it is in. -/
theorem commandIsMaskAndMatch : Obligations.CommandIsMaskAndMatch := by
  intro w
  simp only [nop_pattern_iff, start_pattern_iff, sample_pattern_iff, ne_eq]
  rcases decodeCommand_range_cases w with ⟨hnop, e⟩ | ⟨hstart, e⟩ | ⟨hsample, e⟩ | ⟨⟨hnop, hstart, hsample⟩, k, e⟩
  · simp [e, hnop]
  · have hnop : w.toNat ≠ 0 := by omega
    have hsample : w.toNat / 512 ≠ 0x10 := by omega
    simp [e, hnop, hstart, hsample]
  · have hnop : w.toNat ≠ 0 := by omega
    have hstart : w.toNat / 2 ≠ 0x800 := by omega
    simp [e, hnop, hstart, hsample]
  · simp [e, hnop, hstart, hsample]

/-- Settles O5: with a reserved bit set, or OP above 2, the number of the word lies outside the three ranges. -/
theorem reservedBitsMakeAWordIllegal : Obligations.ReservedBitsMakeAWordIllegal := by
  intro w s h
  obtain ⟨k, hk⟩ : ∃ k, decodeCommand w = .error k := decodeCommand_illegal_of_no_pattern (by omega)
  exact ⟨⟨k, hk⟩, runCommand_of_illegal hk s⟩

/-- Settles O52: the three patterns are tried in the decoder's own order, and `runCommand_eq` names the next state. -/
theorem execOfAWord : Obligations.ExecOfAWord := by
  refine fun w s => ⟨⟨_, runCommand_eq w s⟩, ?_⟩
  split
  case isTrue hnop => exact runCommand_of_legal (if_pos hnop) s
  case isFalse hnop =>
    split
    case isTrue hstart => exact runCommand_of_legal ((if_neg hnop).trans (if_pos hstart)) s
    case isFalse hstart =>
      split
      case isTrue hsample =>
        exact runCommand_of_legal ((if_neg hnop).trans ((if_neg hstart).trans (if_pos hsample))) s
      case isFalse hsample =>
        exact runCommand_of_illegal ((if_neg hnop).trans ((if_neg hstart).trans (if_neg hsample))) s

end

section
/-! SUPPORT. What NOP, START accepted and START refused answer, what STATUS and the gated readings show after them,
and how BUSY can be left (R68 to R70); with the statements about NOP and START. -/

namespace Sys2Proof

/-- A word with OP 0 and a bit set below it is not a NOP but illegal (R57, R68). -/
theorem decodeCommand_reservedNop {w : Word} (hpos : 1 ≤ w.toNat) (hle : w.toNat ≤ 0x0FFF) :
    decodeCommand w = .error .reservedNop := by
  have hnop : w.toNat ≠ 0 := by omega
  have hstart : w.toNat / 2 ≠ 0x800 := by omega
  have hsample : w.toNat / 512 ≠ 0x10 := by omega
  have hop : w.toNat / 4096 = 0 := by omega
  rw [decodeCommand_by_number, if_neg hnop, if_neg hstart, if_neg hsample, if_pos hop]

end Sys2Proof

namespace Sys2Proof.Machine

theorem exec_start (m : SensorModel) (s : State) : exec (.start m) s = .next (s.withRegs (s.regs.start m)) := rfl

/-- START outside BUSY begins an attempt (R69). -/
theorem exec_start_accepted (m : SensorModel) {s : State} (h : s.regs.st ≠ .busy) :
    exec (.start m) s = .next (s.withRegs (s.regs.beginAttempt m)) := by
  rw [exec_start, Regs.start_accepted m h]

/-- START in BUSY is refused (R70). -/
theorem exec_start_refused (m : SensorModel) {s : State} (h : s.regs.st = .busy) :
    exec (.start m) s = .next s.refuse := by
  rw [exec_start, Regs.start_busy m h, State.refuse]

theorem State.readPort_status (s : State) : s.readPort 0 = s.regs.statusWord := rfl

/-- Bit 7 of STATUS is CMD_ERR, the element `err` (R100). -/
theorem Regs.statusWord_cmdErr (r : Regs) : r.statusWord.getLsbD 7 = r.err := by
  obtain ⟨-, -, -, herr, -⟩ := r.statusWord_fields
  rw [BitVec.getLsbD, Nat.testBit_eq_decide_div_mod_eq, ← herr]
  cases r.err <;> rfl

/-- STATUS right after an accepted START: BUSY, no result, the model in bit 4, and nothing else (R69, R100). -/
theorem Regs.beginAttempt_statusWord (r : Regs) (m : SensorModel) :
    (r.beginAttempt m).statusWord = 0x000D ||| modelBit m <<< 4 := by
  cases m <;> simp only [Regs.beginAttempt] <;> decide

/-- Without a valid result HUM_DECI reads 0 (R99). -/
theorem State.readPort_humDeci_of_not_valid {s : State} (h : s.regs.valid = false) : s.readPort 5 = 0 := by
  change s.regs.humDeci = 0
  rw [Regs.humDeci, h]
  rfl

/-- Without a valid result TEMP_DECI reads 0 (R99). -/
theorem State.readPort_tempDeci_of_not_valid {s : State} (h : s.regs.valid = false) : s.readPort 6 = 0 := by
  change s.regs.tempDeci = 0
  rw [Regs.tempDeci, h]
  rfl

/-- A SAMPLE in BUSY goes on with the attempt or ends it in DONE (R76, R83, R84). -/
theorem Regs.sample_st_of_busy {r : Regs} (h : r.st = .busy) (p : Params) (t : Bool) (d : Byte) :
    (r.sample p t d).st = .busy ∨ (r.sample p t d).st = .done := by
  cases ht : timedOut p t d
  · rw [Regs.sample_observed h ht, Regs.observe_st]
    split
    · exact .inr rfl
    · exact .inl h
  · rw [Regs.sample_timedOut h ht]
    exact .inr rfl

/-- The moves that leave BUSY: a reset, and a SAMPLE that ends the attempt (R70). -/
theorem Regs.afterMove_leaves_busy {r : Regs} {p : Params} {mv : HostMove} (hbusy : r.st = .busy)
    (hleft : (r.afterMove p mv).st ≠ .busy) :
    isResetMove mv = true ∨ (isSampleMove mv = true ∧ (r.afterMove p mv).st = .done) := by
  rcases r.afterMove_cases p mv with ⟨hr, -⟩ | ⟨-, m, e⟩ | ⟨hs, t, d, e⟩ | e | e
  · exact .inl hr
  · exact absurd (by rw [e, Regs.start_st]) hleft
  · rw [e] at hleft ⊢
    exact .inr ⟨hs, (Regs.sample_st_of_busy hbusy p t d).resolve_left hleft⟩
  · exact absurd (by rw [e, hbusy]) hleft
  · exact absurd (by rw [e, Regs.refuse_st, hbusy]) hleft

end Sys2Proof.Machine

open Sys2Proof Sys2Proof.Machine

/-- Settles O9: NOP answers its own state, and the words up to 0x0FFF without 0x0000 have a reserved bit set. -/
theorem nopChangesNothing : Obligations.NopChangesNothing :=
  ⟨fun _ => rfl, rfl, fun _ => decodeCommand_reservedNop⟩

/-- Settles O10: outside BUSY the START is accepted, and the readings follow from the eight elements it writes. -/
theorem startBeginsAttempt : Obligations.StartBeginsAttempt := by
  intro m s hst t
  have not_busy : s.regs.st ≠ .busy := by rcases hst with h | h <;> simp [h]
  have status : t.readPort 0 = 0x000D ||| modelBit m <<< 4 := s.regs.beginAttempt_statusWord m
  exact ⟨exec_start_accepted m not_busy, rfl, status.trans (by cases m <;> rfl),
    State.readPort_humDeci_of_not_valid rfl, State.readPort_tempDeci_of_not_valid rfl, rfl⟩

/-- Settles O11: in BUSY the START is refused, and no START, NOP, read or refusal leaves BUSY. -/
theorem startRefusedWhileBusy : Obligations.StartRefusedWhileBusy := by
  refine ⟨fun m s hbusy => ⟨exec_start_refused m hbusy, rfl, ?_⟩, fun mv s t hbusy hmove hleft => ?_⟩
  · rw [State.readPort_status, Regs.statusWord_cmdErr]
  · obtain rfl := eq_afterMove_of_runMove hmove
    exact Regs.afterMove_leaves_busy hbusy hleft

end

section
/-! SUPPORT. What SAMPLE answers refused, timed out and counted, what the observation at index 79 writes, and what
START and SAMPLE do to `cnt` (R74 to R83); with the statements about one observation. -/

namespace Sys2Proof.Machine

theorem exec_sample (t : Bool) (d : Byte) (s : State) :
    exec (.sample t d) s = .next (s.withRegs (s.regs.sample s.params t d)) := rfl

/-- SAMPLE outside BUSY is refused (R74). -/
theorem exec_sample_refused (t : Bool) (d : Byte) {s : State} (h : s.regs.st ≠ .busy) :
    exec (.sample t d) s = .next s.refuse := by
  rw [exec_sample, Regs.sample_refused s.params t d h, State.refuse]

/-- The timeout test of R76, by numbers. -/
theorem timedOut_iff (p : Params) (t : Bool) (d : Byte) :
    timedOut p t d = true ↔ t = true ∨ p.timeoutUs.toNat < d.toNat := by
  simp [timedOut, BitVec.ult]

/-- A timed-out SAMPLE in BUSY ends the attempt (R76). -/
theorem exec_sample_timedOut {t : Bool} {d : Byte} {s : State} (hbusy : s.regs.st = .busy)
    (hlate : t = true ∨ s.params.timeoutUs.toNat < d.toNat) :
    exec (.sample t d) s = .next (s.withRegs (s.regs.endAttempt .timeout)) := by
  rw [exec_sample, Regs.sample_timedOut hbusy ((timedOut_iff _ _ _).2 hlate)]

/-- A SAMPLE in BUSY that is not timed out is one observation (R84). -/
theorem exec_sample_observed {d : Byte} {s : State} (hbusy : s.regs.st = .busy)
    (honTime : d.toNat ≤ s.params.timeoutUs.toNat) :
    exec (.sample false d) s = .next (s.withRegs (s.regs.observe s.params d)) := by
  rw [exec_sample, Regs.sample_observed hbusy ((timedOut_false_iff _ _ _).2 ⟨rfl, honTime⟩)]

/-- The field CNT of STATUS is the element `cnt` (R100). -/
theorem Regs.statusWord_cnt (r : Regs) : (r.statusWord.extractLsb' 8 7).toNat = r.cnt.toNat := by
  obtain ⟨-, -, -, -, hcnt⟩ := r.statusWord_fields
  have hcnt_lt := r.cnt.isLt
  rw [BitVec.extractLsb'_toNat, Nat.shiftRight_eq_div_pow]
  omega

/-- The shift-in of a duration's data bit, by the numbers of R78. -/
theorem shiftIn_dataBit (a : Word) (p : Params) (d : Byte) :
    shiftIn a (dataBit p d) = (a <<< 1) ||| (if p.bitThresholdUs.toNat < d.toNat then 1 else 0) := by
  by_cases h : p.bitThresholdUs.toNat < d.toNat <;> simp [shiftIn, dataBit, BitVec.ult, h]

/-- The shift-in doubles the accumulator, loses its bit 15 and adds the new bit (R77, R86). -/
theorem shiftIn_toNat (a : Word) (b : Bool) : (shiftIn a b).toNat = 2 * a.toNat % 65536 + b.toNat := by
  have hshift : (a <<< 1).toNat = 2 * a.toNat % 65536 := by
    rw [BitVec.toNat_shiftLeft, Nat.shiftLeft_eq, Nat.mul_comm]
  have heven : (a <<< 1).toNat = 2 ^ 1 * (a.toNat % 32768) := by omega
  have hbit : (BitVec.setWidth 16 (BitVec.ofBool b)).toNat = b.toNat := by cases b <;> rfl
  rw [shiftIn, BitVec.toNat_or, hbit, heven, ← Nat.two_pow_add_eq_or_of_lt b.toNat_lt]
  omega

/-- The byte sum of R92, by numbers. -/
theorem checksum8_toNat (h t : Word) :
    (checksum8 h t).toNat = (h.toNat % 256 + h.toNat / 256 + t.toNat % 256 + t.toNat / 256) % 256 := by
  rw [checksum8, BitVec.toNat_ofNat, highByte_toNat, highByte_toNat, lowByte_toNat, lowByte_toNat]

/-- The test of R83, by numbers. -/
theorem checksum8_eq_lowByte_iff (h t a : Word) :
    checksum8 h t = lowByte a ↔
      (h.toNat % 256 + h.toNat / 256 + t.toNat % 256 + t.toNat / 256) % 256 = a.toNat % 256 := by
  rw [← BitVec.toNat_inj, checksum8_toNat, lowByte_toNat]

/-- The observation at index 79 shifts in its bit, advances, and ends the attempt with the verdict (R83). -/
theorem Regs.observe_last {r : Regs} (p : Params) (d : Byte) (h : r.cnt = 82) :
    r.observe p d = { r with
      acc := shiftIn r.acc (dataBit p d)
      cnt := 83
      st := .done
      res := if checksum8 r.rh r.rt = lowByte (shiftIn r.acc (dataBit p d)) then .ok else .checksum } := by
  have hcnt : r.cnt.toNat = 82 := congrArg BitVec.toNat h
  apply Regs.ext_parts
  case hst => simp [Regs.observe_st, hcnt]
  case hres => simp [Regs.observe_res, hcnt, Regs.advance_verdict_last]
  case hmodel => exact r.observe_model p d
  case hcnt => rw [Regs.observe_cnt, h]; rfl
  case hacc => simp [Regs.observe_acc, Regs.shifted_eq, hcnt]
  case hrh => simp [Regs.observe_rh, hcnt]
  case hrt => simp [Regs.observe_rt, hcnt]
  case herr => exact r.observe_err p d

/-- In a state that meets the invariant seven bits at most stand in `acc` before index 79 (R89, entry 15). -/
theorem State.Inv.acc_lt_of_last {s : State} (h : s.Inv) (hbusy : s.regs.st = .busy) (hcnt : s.regs.cnt = 82) :
    s.regs.acc.toNat < 128 := by
  obtain ⟨-, -, hgrows⟩ := h
  have hcnt' : s.regs.cnt.toNat = 82 := congrArg BitVec.toNat hcnt
  have hacc := hgrows hbusy (by omega)
  rwa [hcnt'] at hacc

/-- START writes 0 to `cnt` when accepted, and nothing when refused (R69, R70). -/
theorem Regs.start_cnt (r : Regs) (m : SensorModel) : (r.start m).cnt = if r.st = .busy then r.cnt else 0 := by
  split
  case isTrue hbusy => rw [Regs.start_busy m hbusy, Regs.refuse_cnt]
  case isFalse hbusy => rw [Regs.start_accepted m hbusy, Regs.beginAttempt_cnt]

/-- SAMPLE advances `cnt` exactly when it is counted (R74, R76, R82). -/
theorem Regs.sample_cnt (r : Regs) (p : Params) (t : Bool) (d : Byte) :
    (r.sample p t d).cnt =
      if r.st = .busy ∧ t = false ∧ d.toNat ≤ p.timeoutUs.toNat then r.cnt + 1 else r.cnt := by
  simp only [← timedOut_false_iff]
  by_cases hbusy : r.st = .busy
  · cases ht : timedOut p t d
    · rw [Regs.sample_observed hbusy ht, Regs.observe_cnt, if_pos ⟨hbusy, rfl⟩]
    · rw [Regs.sample_timedOut hbusy ht, Regs.endAttempt_cnt, if_neg (by simp)]
  · rw [Regs.sample_refused p t d hbusy, Regs.refuse_cnt, if_neg (fun h => hbusy h.1)]

end Sys2Proof.Machine

open Sys2Proof Sys2Proof.Machine

/-- Settles O21: `Regs.observe_last`, with the shift-in and the sum as numbers; eight shifts stay below 256. -/
theorem lastSampleChecksTheSum : Obligations.LastSampleChecksTheSum := by
  intro d s hbusy honTime hcnt a sum
  have hshift : shiftIn s.regs.acc (dataBit s.params d) = a := shiftIn_dataBit _ _ _
  refine ⟨?_, fun hinv => ?_⟩
  · rw [exec_sample_observed hbusy honTime, Regs.observe_last _ _ hcnt, hshift]
    simp only [checksum8_eq_lowByte_iff]
    rfl
  · have hacc := hinv.acc_lt_of_last hbusy hcnt
    have hbit := (dataBit s.params d).toNat_lt
    rw [← hshift, shiftIn_toNat]
    omega

/-- Settles O22: NOP and a refusal keep `cnt`; `Regs.start_cnt` and `Regs.sample_cnt` say the rest. -/
theorem onlySamplesAdvanceTheCounter : Obligations.OnlySamplesAdvanceTheCounter := by
  intro w s t h counted started
  rw [runCommand_eq] at h
  cases h
  rw [State.withRegs_regs]
  rcases s.regs.command_cases s.params w with ⟨hw, e⟩ | ⟨m, hw, e⟩ | ⟨f, d, hw, e⟩ | ⟨k, hw, e⟩
  · simp [counted, started, hw, e]
  · by_cases hbusy : s.regs.st = .busy <;> simp [counted, started, hw, e, Regs.start_cnt, hbusy]
  · simp +contextual [counted, started, hw, e, Regs.sample_cnt]
  · simp [counted, started, hw, e]

/-- Settles O14: outside BUSY the SAMPLE is refused. -/
theorem sampleRefusedOutsideAttempt : Obligations.SampleRefusedOutsideAttempt :=
  fun t d _ hst => exec_sample_refused t d hst

/-- Settles O15: a timed-out SAMPLE only writes `st` and `res`; at the threshold itself it is an observation. -/
theorem sampleTimeoutEndsAttempt : Obligations.SampleTimeoutEndsAttempt := by
  refine ⟨fun t d s hbusy hlate => ⟨_, exec_sample_timedOut hbusy hlate, rfl, ?_⟩, fun s hbusy => ?_⟩
  · rw [State.readPort_status, Regs.statusWord_cnt, State.withRegs_regs, Regs.endAttempt_cnt]
  · exact ⟨_, exec_sample_observed hbusy le_rfl, Regs.observe_cnt _ _ _⟩

/-- Settles O17: an odd index from 1 on is an even counter from 4 on, where the observation takes its bit; at counter
66 the shifted value goes to `rt`. -/
theorem sampleShiftsInTheDataBit : Obligations.SampleShiftsInTheDataBit := by
  refine ⟨fun d s hbusy honTime hpos hodd => ⟨_, exec_sample_observed hbusy honTime, ?_⟩, by decide⟩
  have hdata : 4 ≤ s.regs.cnt.toNat ∧ s.regs.cnt.toNat % 2 = 0 := by omega
  have hshifted : s.regs.shifted s.params d = shiftIn s.regs.acc (dataBit s.params d) := by
    rw [Regs.shifted_eq, if_pos hdata]
  have hsnap : s.regs.cnt = 66 ↔ s.regs.cnt.toNat = 66 := BitVec.toNat_inj.symm
  rw [← shiftIn_dataBit, ← hshifted, Regs.observe_rt, Regs.observe_acc]
  split
  case isTrue h => rw [if_pos (hsnap.1 h)]
  case isFalse h => rw [if_neg (mt hsnap.2 h)]

end

section
/-! SUPPORT. The gate VALID, what it lets through to HUM_DECI, TEMP_DECI and bit 6 of STATUS, and the temperature of
magnitude 0 (R93, R98, R99); with the statements about the gated readings and the received sign. -/

namespace Sys2Proof.Machine

/-- Address 5 reads HUM_DECI (R37). -/
theorem State.readPort_humDeci (s : State) : s.readPort 5 = s.regs.humDeci := rfl

/-- Address 6 reads TEMP_DECI (R37). -/
theorem State.readPort_tempDeci (s : State) : s.readPort 6 = s.regs.tempDeci := rfl

theorem Regs.valid_iff (r : Regs) : r.valid = true ↔ r.res = .ok := beq_iff_eq

/-- TEMP_NEG is the received sign behind the gate (R98). -/
theorem Regs.tempNeg_iff (r : Regs) : r.tempNeg = true ↔ r.res = .ok ∧ tneg r.model r.rt = true := by
  rw [Regs.tempNeg, Bool.and_eq_true, Regs.valid_iff]

/-- A flag fills bit 0 of its field and nothing above it. -/
theorem flagBit_getElem (b : Bool) (i : Nat) (h : i < 16) : (flagBit b)[i] = (decide (i = 0) && b) := by
  cases i <;> simp [flagBit]

/-- Bit 6 of STATUS is TEMP_NEG (R100): the fields below it end before bit 6, and those above start after it. -/
theorem Regs.statusWord_tempNeg (r : Regs) : r.statusWord.getLsbD 6 = r.tempNeg := by
  have st_ends : r.st.code[6] = false := by cases r.st <;> rfl
  have res_ends : r.res.code[4] = false := by cases r.res <;> rfl
  have model_ends : (modelBit r.model)[2] = false := by cases r.model <;> rfl
  simp [Regs.statusWord, flagBit_getElem, st_ends, res_ends, model_ends]

/-- A magnitude of 0 gives the temperature 0, whatever the sign (R95, R97). -/
theorem temp_of_tmag_zero {m : SensorModel} {rt : Word} (h : tmag m rt = 0) : temp m rt = 0 := by
  cases hsign : tneg m rt <;> simp [temp, hsign, h]

end Sys2Proof.Machine

open Sys2Proof Sys2Proof.Machine

/-- Settles O37: the two registers are gated by VALID, and an accepted START leaves no valid result. -/
theorem readingsAreGatedByValid : Obligations.ReadingsAreGatedByValid := by
  refine ⟨fun s => ⟨s.readPort_humDeci, s.readPort_tempDeci⟩, fun m s t hst hexec => ?_⟩
  rw [exec_start_accepted m hst] at hexec
  cases hexec
  exact ⟨State.readPort_humDeci_of_not_valid rfl, State.readPort_tempDeci_of_not_valid rfl⟩

/-- Settles O39: bit 6 of STATUS is TEMP_NEG, which looks at the sign and not at the magnitude. -/
theorem tempNegIsTheReceivedSign : Obligations.TempNegIsTheReceivedSign := by
  have bit6_iff : ∀ s : State,
      (s.readPort 0).getLsbD 6 = true ↔ s.regs.res = .ok ∧ tneg s.regs.model s.regs.rt = true := by
    intro s
    rw [State.readPort_status, Regs.statusWord_tempNeg, Regs.tempNeg_iff]
  refine ⟨fun s => ?_, fun s hok hzero hsign => ⟨(bit6_iff s).2 ⟨hok, hsign⟩, ?_⟩⟩
  · rw [bit6_iff]
    cases s.regs.model <;> rfl
  · rw [State.readPort_tempDeci, Regs.tempDeci, if_pos (s.regs.valid_iff.2 hok), temp_of_tmag_zero hzero]

end

section
/-! SUPPORT. The refusal causes of R110, and what a command does with one and without; with the statement about
refused commands. -/

namespace Sys2Proof.Machine

/-- A cause of the table of R110: an illegal word, START in BUSY, SAMPLE outside BUSY. -/
def Regs.RefusalCause (r : Regs) (w : Word) : Prop :=
  (∃ k, decodeCommand w = .error k) ∨ ((∃ m, decodeCommand w = .ok (.start m)) ∧ r.st = .busy) ∨
    ((∃ t d, decodeCommand w = .ok (.sample t d)) ∧ r.st ≠ .busy)

/-- With a cause, a command sets `err` and does nothing else (R110). -/
theorem Regs.command_refused {r : Regs} {w : Word} (h : r.RefusalCause w) (p : Params) :
    r.command p w = r.refuse := by
  rcases h with ⟨k, hw⟩ | ⟨⟨m, hw⟩, hbusy⟩ | ⟨⟨t, d, hw⟩, hnot⟩
  · exact r.command_illegal p hw
  · rw [r.command_start p hw, Regs.start_busy m hbusy]
  · rw [r.command_sample p hw, Regs.sample_refused p t d hnot]

/-- A SAMPLE in BUSY is not refused: it keeps `err`, counted or timed out (R76, R84). -/
theorem Regs.sample_err_of_busy {r : Regs} (h : r.st = .busy) (p : Params) (t : Bool) (d : Byte) :
    (r.sample p t d).err = r.err := by
  cases ht : timedOut p t d
  · rw [Regs.sample_observed h ht, Regs.observe_err]
  · rw [Regs.sample_timedOut h ht, Regs.endAttempt_err]

/-- Without a cause a command keeps `err`, or is an accepted START and clears it (R21, R110). -/
theorem Regs.command_err_of_not_refusalCause {r : Regs} {w : Word} (h : ¬r.RefusalCause w) (p : Params) :
    (r.command p w).err = r.err ∨ (r.command p w).err = false := by
  rcases r.command_cases p w with ⟨-, e⟩ | ⟨m, hw, e⟩ | ⟨t, d, hw, e⟩ | ⟨k, hw, -⟩
  · exact .inl (congrArg Regs.err e)
  · have not_busy : r.st ≠ .busy := fun hbusy => h (.inr (.inl ⟨⟨m, hw⟩, hbusy⟩))
    exact .inr (by rw [e, Regs.start_accepted m not_busy, Regs.beginAttempt_err])
  · have busy : r.st = .busy := by_contra fun hnot => h (.inr (.inr ⟨⟨t, d, hw⟩, hnot⟩))
    exact .inl (by rw [e, Regs.sample_err_of_busy busy])
  · exact absurd (.inl ⟨k, hw⟩) h

end Sys2Proof.Machine

open Sys2Proof Sys2Proof.Machine

/-- Settles O46: with a cause the command is a refusal, without one it keeps or clears `err`; and that a set `err`
falls only by a reset or an accepted START is the first clause of `errIsSticky`. -/
theorem refusedExactlyInThreeCases : Obligations.RefusedExactlyInThreeCases := by
  refine ⟨fun w s => ⟨fun (hcause : s.regs.RefusalCause w) => ?_, fun (hnone : ¬s.regs.RefusalCause w) =>
    ⟨_, runCommand_eq w s, fun hset => ?_⟩⟩, fun mv s t h hset => ?_⟩
  · rw [runCommand_eq, Regs.command_refused hcause]
    rfl
  · rcases Regs.command_err_of_not_refusalCause hnone s.params with e | e
    · exact e.symm.trans hset
    · exact absurd (e.symm.trans hset) Bool.false_ne_true
  · obtain ⟨falls_by, -, -⟩ := errIsSticky mv s t h
    cases herr : t.regs.err
    · exact .inr (falls_by hset herr)
    · exact .inl rfl

end

section
/-! SUPPORT. What an edge with `rst = 1` answers, and how an attempt ends without it (R121); with the statement about
reset. -/

namespace Sys2Proof.Machine

/-- An edge with `rst = 1` is a reset, whatever the command port holds (R28). -/
theorem runEdge_reset (v : Bool) (w : Word) (s : State) : runEdge true v w s = .next s.applyReset :=
  rfl

/-- Holding `rst` gives the same state (R121). -/
theorem State.applyReset_applyReset (s : State) : s.applyReset.applyReset = s.applyReset := rfl

end Sys2Proof.Machine

open Sys2Proof Sys2Proof.Machine

/-- Settles O49: a reset edge writes the reset table and resetting again writes it again; without a reset, only a
SAMPLE that ends the attempt leaves BUSY. -/
theorem resetEdgeGivesTheResetState : Obligations.ResetEdgeGivesTheResetState := by
  refine ⟨fun v w s => ⟨s.applyReset, runEdge_reset v w s, rfl, fun v' w' => ?_⟩, fun mv s t hbusy hmove hno => ?_⟩
  · rw [runEdge_reset, State.applyReset_applyReset]
  · obtain rfl := eq_afterMove_of_runMove hmove
    by_cases hstays : (s.afterMove mv).regs.st = .busy
    · exact .inl hstays
    · exact .inr ((Regs.afterMove_leaves_busy hbusy hstays).resolve_left (by simp [hno]))

end

section
/-! SUPPORT. The encoder as numbers, the decoder as its inverse, and the ranges of the word's number that the decoder
tells apart (R52 to R57, R61); with the statements about the encoding. -/

namespace Sys2Proof

/-- The word of START m, by its number. -/
theorem encode_start (m : SensorModel) :
    encode (.start m) = .command (BitVec.ofNat 16 (0x1000 + (modelBit m).toNat)) := by
  cases m <;> rfl

/-- The word of SAMPLE t, d is 0x2000 | T << 8 | D, and the three parts do not overlap (R55). -/
theorem encode_sample (t : Bool) (d : Byte) :
    encode (.sample t d) = .command (BitVec.ofNat 16 (0x2000 + 256 * t.toNat + d.toNat)) := by
  have upper : (0x2000#16 ||| BitVec.setWidth 16 (BitVec.ofBool t) <<< 8).toNat = 2 ^ 8 * (0x20 + t.toNat) := by
    cases t <;> rfl
  have lower : (BitVec.setWidth 16 d).toNat = d.toNat := BitVec.toNat_setWidth_of_le (by decide)
  have ht := t.toNat_lt
  have hd := d.isLt
  rw [encode, PortWord.command.injEq]
  apply BitVec.eq_of_toNat_eq
  rw [BitVec.toNat_or, upper, lower, ← Nat.two_pow_add_eq_or_of_lt hd, BitVec.toNat_ofNat]
  omega

/-- Decoding undoes encoding. -/
theorem decode_encode (i : Instr) : decode (encode i) = .ok i := by
  cases i with
  | nop => exact decodeCommand_nop
  | start m => exact decodeCommand_start m
  | sample t d => exact decodeCommand_sample t d
  | rdStatus | rdRawHum | rdRawTemp | rdAcc | rdSum | rdHumDeci | rdTempDeci | rdParams => rfl

/-- The words of the START pattern are those of `encode`. -/
theorem encode_start_modelField {w : Word} (h : w.toNat / 2 = 0x800) : encode (.start (modelField w)) = .command w := by
  have bit : (modelBit (modelField w)).toNat = w.toNat % 2 := by
    rw [modelField_eq]
    split <;> simp [modelBit] <;> omega
  rw [encode_start, bit, PortWord.command.injEq]
  apply BitVec.eq_of_toNat_eq
  rw [BitVec.toNat_ofNat]
  omega

/-- The words of the SAMPLE pattern are those of `encode`. -/
theorem encode_sample_fields {w : Word} (h : w.toNat / 512 = 0x10) :
    encode (.sample (timeoutField w) (durationField w)) = .command w := by
  have flag : (timeoutField w).toNat = w.toNat / 256 % 2 := by
    rw [timeoutField_eq]
    rcases Nat.mod_two_eq_zero_or_one (w.toNat / 256) with e | e <;> simp [e]
  rw [encode_sample, flag, durationField_toNat, PortWord.command.injEq]
  apply BitVec.eq_of_toNat_eq
  rw [BitVec.toNat_ofNat]
  omega

theorem encode_decodeReadAddr (a : ReadAddr) : encode (decodeReadAddr a) = .readAddr a := by
  revert a
  decide

/-- Encoding undoes decoding: no two port words decode to one instruction. -/
theorem encode_of_decode {pw : PortWord} {i : Instr} (h : decode pw = .ok i) : encode i = pw := by
  cases pw with
  | readAddr a =>
    cases h
    exact encode_decodeReadAddr a
  | command w =>
    rw [decode] at h
    rcases decodeCommand_range_cases w with ⟨hnop, e⟩ | ⟨hstart, e⟩ | ⟨hsample, e⟩ | ⟨-, k, e⟩ <;>
      cases e.symm.trans h
    · exact congrArg PortWord.command (BitVec.eq_of_toNat_eq hnop.symm)
    · exact encode_start_modelField hstart
    · exact encode_sample_fields hsample

/-- The decoder by the range the word's number lies in: eight ranges, that cover all words. -/
theorem decodeCommand_interval_cases (w : Word) :
    (w.toNat = 0 ∧ decodeCommand w = .ok .nop) ∨
      ((0x1000 ≤ w.toNat ∧ w.toNat < 0x1002) ∧ decodeCommand w = .ok (.start (modelField w))) ∨
      ((0x2000 ≤ w.toNat ∧ w.toNat < 0x2100) ∧ decodeCommand w = .ok (.sample false (durationField w))) ∨
      ((0x2100 ≤ w.toNat ∧ w.toNat < 0x2200) ∧ decodeCommand w = .ok (.sample true (durationField w))) ∨
      (0x3000 ≤ w.toNat ∧ decodeCommand w = .error .illegalOp) ∨
      ((1 ≤ w.toNat ∧ w.toNat < 0x1000) ∧ decodeCommand w = .error .reservedNop) ∨
      ((0x1002 ≤ w.toNat ∧ w.toNat < 0x2000) ∧ decodeCommand w = .error .reservedStart) ∨
      ((0x2200 ≤ w.toNat ∧ w.toNat < 0x3000) ∧ decodeCommand w = .error .reservedSample) := by
  rw [decodeCommand_by_number, timeoutField_eq]
  split_ifs <;> simp <;> omega

/-- Counting the words whose decoding meets a check, when they are the `n` words from `lo` on. -/
theorem countP_decodeCommand (f : Except IllegalWord Instr → Bool) (lo n : Nat) (hle : lo + n ≤ 0x10000)
    (hf : ∀ w : Word, f (decodeCommand w) = true ↔ lo ≤ w.toNat ∧ w.toNat < lo + n) :
    (List.range 0x10000).countP (fun k => f (decodeCommand (BitVec.ofNat 16 k))) = n := by
  have inside : ∀ k ∈ List.range 0x10000,
      f (decodeCommand (BitVec.ofNat 16 k)) = true ↔ (decide (lo ≤ k) && decide (k < lo + n)) = true := by
    intro k hk
    have toNat_eq : (BitVec.ofNat 16 k).toNat = k := Nat.mod_eq_of_lt (List.mem_range.1 hk)
    rw [hf, toNat_eq, Bool.and_eq_true, decide_eq_true_eq, decide_eq_true_eq]
  rw [List.countP_congr inside, countP_range_interval lo (lo + n) _ (by omega)]
  omega

end Sys2Proof

open Sys2Proof Sys2Proof.Machine

/-- Settles O2: decoding and encoding undo each other. -/
theorem decodeIffEncode : Obligations.DecodeIffEncode := by
  refine fun pw i _ => ⟨encode_of_decode, fun h => ?_⟩
  rw [← h, decode_encode]

/-- Settles O4: the ranges are the patterns of START and SAMPLE, and the fields are digits of the number. -/
theorem commandFieldsAreReadOut : Obligations.CommandFieldsAreReadOut := by
  refine ⟨fun w hlo hhi => ?_, fun w hlo hhi => ⟨durationField w, ?_, durationField_toNat w⟩⟩
  · rw [← modelField_eq, decodeCommand_by_number, if_neg (by omega), if_pos (by omega)]
  · rw [← timeoutField_eq, decodeCommand_by_number, if_neg (by omega), if_neg (by omega), if_pos (by omega)]

/-- Settles O6: each check is met by the words of one of the eight ranges, or of two that adjoin. -/
theorem wordCounts : Obligations.WordCounts := by
  unfold Obligations.WordCounts
  intro count
  have count_eq : ∀ f lo n, lo + n ≤ 0x10000 →
      (∀ w : Word, f (decodeCommand w) = true ↔ lo ≤ w.toNat ∧ w.toNat < lo + n) → count f = n :=
    countP_decodeCommand
  clear_value count
  refine ⟨count_eq _ 0 1 (by decide) fun w => ?_, count_eq _ 0x1000 2 (by decide) fun w => ?_,
    count_eq _ 0x2000 512 (by decide) fun w => ?_, count_eq _ 0x2100 256 (by decide) fun w => ?_,
    count_eq _ 0x3000 53248 (by decide) fun w => ?_, count_eq _ 1 4095 (by decide) fun w => ?_,
    count_eq _ 0x1002 4094 (by decide) fun w => ?_, count_eq _ 0x2200 3584 (by decide) fun w => ?_⟩
  all_goals
    have hw := w.isLt
    rcases decodeCommand_interval_cases w with ⟨h, e⟩ | ⟨h, e⟩ | ⟨h, e⟩ | ⟨h, e⟩ | ⟨h, e⟩ | ⟨h, e⟩ | ⟨h, e⟩ |
        ⟨h, e⟩ <;>
      simp [e] <;> omega

/-- Settles O8: `encode_sample` at the byte of a D in range, and at T = 0 and T = 1. -/
theorem assemblerRangesAndWords : Obligations.AssemblerRangesAndWords := by
  have byte_toNat : ∀ d ≤ 255, (BitVec.ofNat 8 d).toNat = d := fun d => Config.toNat_byte_of_le
  refine ⟨fun d => ?_, fun d => ?_, fun w => by simp [assembleLine, AsmLine.wellFormed, expandLine]⟩
  all_goals
    simp only [assembleLine, AsmLine.wellFormed, decide_eq_true_eq, expandLine]
    split
    case isTrue h => rw [encode_sample, byte_toNat d h]; rfl
    case isFalse h => rfl

/-- Settles O1: the spec's table is a list of fixed words, and the decoder is run on each. -/
theorem specWordsDecode : Obligations.SpecWordsDecode := by
  refine ⟨rfl, rfl, rfl, rfl, rfl, rfl, rfl, ?_, rfl⟩
  decide

end

section
/-! SUPPORT. What each operation does to the invariant of the registers, and that a move of the host keeps it (R22,
entry 15); with the statements about the invariant. -/

namespace Sys2Proof.Machine

/-- The part of the invariant that speaks of the registers. -/
def Regs.Inv (r : Regs) : Prop := r.Invariants ∧ r.ChecksumByteGrows

theorem State.inv_iff (s : State) : s.Inv ↔ Config.Legal s.params ∧ s.regs.Inv := Iff.rfl

theorem Regs.reset_inv : Regs.reset.Inv := by
  unfold Regs.Inv
  decide

/-- No part of the invariant reads `err`. -/
theorem Regs.Inv.refuse {r : Regs} (h : r.Inv) : r.refuse.Inv := h

theorem Regs.beginAttempt_inv (r : Regs) (m : SensorModel) : (r.beginAttempt m).Inv := by
  simp [Regs.Inv, Regs.Invariants, Regs.PendingSnapshotsAreZero]

/-- The counter is not at its width's end in BUSY, so the advance of R82 adds one. -/
theorem Regs.observe_cnt_toNat {r : Regs} (h : r.cnt.toNat ≤ 82) (p : Params) (d : Byte) :
    (r.observe p d).cnt.toNat = r.cnt.toNat + 1 := by
  have one : (1 : Count).toNat = 1 := rfl
  rw [Regs.observe_cnt, BitVec.toNat_add, one]
  omega

/-- A timed-out attempt keeps the payload received so far, so only the clauses about DONE and TIMEOUT are new. -/
theorem Regs.Inv.endAttempt_timeout {r : Regs} (h : r.Inv) (hbusy : r.st = .busy) :
    (r.endAttempt .timeout).Inv := by
  obtain ⟨⟨-, busy, -, -, -, pending⟩, -⟩ := h
  obtain ⟨-, hcnt⟩ := busy hbusy
  exact ⟨⟨nofun, nofun, fun _ => .inr (.inl rfl), by simp, fun _ => hcnt, pending⟩, nofun⟩

/-- A snapshot not reached yet stays 0 over an observation. -/
theorem Regs.PendingSnapshotsAreZero.observe {r : Regs} (h : r.PendingSnapshotsAreZero) (hcnt : r.cnt.toNat ≤ 82)
    (p : Params) (d : Byte) : (r.observe p d).PendingSnapshotsAreZero := by
  obtain ⟨rh_zero, rt_zero⟩ := h
  rw [Regs.PendingSnapshotsAreZero, Regs.observe_cnt_toNat hcnt, Regs.observe_rh, Regs.observe_rt]
  refine ⟨fun hle => ?_, fun hle => ?_⟩
  · rw [if_neg (by omega), rh_zero (by omega)]
  · rw [if_neg (by omega), rt_zero (by omega)]

/-- The bound of entry 15 over an observation in BUSY: at counter 66 the accumulator is cleared, and after it each
second observation shifts in one bit. -/
theorem Regs.ChecksumByteGrows.observe {r : Regs} (h : r.ChecksumByteGrows) (hbusy : r.st = .busy)
    (hcnt : r.cnt.toNat ≤ 82) (hle : 66 ≤ r.cnt.toNat) (p : Params) (d : Byte) :
    (r.observe p d).acc.toNat < 2 ^ ((r.cnt.toNat + 1 - 67) / 2) := by
  rw [Regs.observe_acc]
  split
  case isTrue hsnap => simp
  case isFalse hsnap =>
    have bound := h hbusy (by omega)
    rw [Regs.shifted_eq]
    split
    case isTrue heven =>
      have exponent : (r.cnt.toNat + 1 - 67) / 2 = (r.cnt.toNat - 67) / 2 + 1 := by omega
      have hbit := (dataBit p d).toNat_lt
      rw [shiftIn_toNat, exponent, Nat.pow_succ]
      omega
    case isFalse hodd =>
      have exponent : (r.cnt.toNat + 1 - 67) / 2 = (r.cnt.toNat - 67) / 2 := by omega
      rwa [exponent]

/-- An observation in BUSY keeps the invariant: the 83rd ends the attempt with a verdict and eight bits in `acc`, any
other leaves the attempt in BUSY without a result. -/
theorem Regs.Inv.observe {r : Regs} (h : r.Inv) (hbusy : r.st = .busy) (p : Params) (d : Byte) :
    (r.observe p d).Inv := by
  obtain ⟨⟨-, busy, -, -, -, pending⟩, grows⟩ := h
  obtain ⟨hres, hcnt⟩ := busy hbusy
  have hcnt' := Regs.observe_cnt_toNat hcnt p d
  have hst := r.observe_st p d
  have hres' := r.observe_res p d
  have pending' := pending.observe hcnt p d
  have grows' : 66 ≤ r.cnt.toNat → _ := fun hle => grows.observe hbusy hcnt hle p d
  by_cases hlast : r.cnt.toNat = 82
  · rw [if_pos hlast] at hst hres'
    have verdict : (r.observe p d).res = .ok ∨ (r.observe p d).res = .checksum := by
      rw [hres', Regs.advance_verdict_last r p d hlast]
      split <;> simp
    have full : (r.observe p d).cnt.toNat = 83 ∧ highByte (r.observe p d).acc = 0 := by
      have hacc := grows' (by omega)
      rw [hlast] at hacc
      refine ⟨by omega, BitVec.eq_of_toNat_eq ?_⟩
      rw [highByte_toNat]
      exact Nat.div_eq_of_lt hacc
    refine ⟨⟨by simp [hst], by simp [hst], fun _ => ?_, fun _ => full, fun htimeout => ?_, pending'⟩, by simp [hst]⟩
    · exact verdict.imp_right .inr
    · simp [htimeout] at verdict
  · rw [if_neg hlast] at hst hres'
    rw [hbusy] at hst
    rw [hres] at hres'
    refine ⟨⟨by simp [hst], fun _ => ⟨hres', by omega⟩, by simp [hst], by simp [hres'], by simp [hres'], pending'⟩,
      fun _ hle => ?_⟩
    rw [hcnt'] at hle ⊢
    exact grows' (by omega)

/-- A SAMPLE keeps the invariant: refused, timed out or counted. -/
theorem Regs.Inv.sample {r : Regs} (h : r.Inv) (p : Params) (t : Bool) (d : Byte) : (r.sample p t d).Inv := by
  by_cases hbusy : r.st = .busy
  · cases ht : timedOut p t d
    · rw [Regs.sample_observed hbusy ht]
      exact h.observe hbusy p d
    · rw [Regs.sample_timedOut hbusy ht]
      exact h.endAttempt_timeout hbusy
  · rw [Regs.sample_refused p t d hbusy]
    exact h.refuse

/-- A START keeps the invariant: refused or accepted. -/
theorem Regs.Inv.start {r : Regs} (h : r.Inv) (m : SensorModel) : (r.start m).Inv := by
  by_cases hbusy : r.st = .busy
  · rw [Regs.start_busy m hbusy]
    exact h.refuse
  · rw [Regs.start_accepted m hbusy]
    exact r.beginAttempt_inv m

theorem Regs.Inv.afterMove {r : Regs} (h : r.Inv) (p : Params) (mv : HostMove) : (r.afterMove p mv).Inv := by
  rcases r.afterMove_cases p mv with ⟨-, e⟩ | ⟨-, m, e⟩ | ⟨-, t, d, e⟩ | e | e <;> rw [e]
  · exact Regs.reset_inv
  · exact h.start m
  · exact h.sample p t d
  · exact h
  · exact h.refuse

theorem State.Inv.afterMove {s : State} (h : s.Inv) (mv : HostMove) : (s.afterMove mv).Inv := by
  obtain ⟨legal, regs⟩ := s.inv_iff.1 h
  exact ⟨legal, regs.afterMove s.params mv⟩

theorem State.Inv.step {s t : State} (h : s.Inv) (hstep : step s = .next t) : t.Inv := by
  obtain ⟨-, rfl⟩ | ⟨mv, rest, -, rfl⟩ := step_cases hstep
  · exact h
  · exact h.afterMove mv

/-- Every reachable state meets the invariant. -/
theorem Reachable.inv {s : State} (h : Reachable s) : s.Inv := by
  induction h with
  | reset p l legal => exact ⟨legal, Regs.reset_inv⟩
  | step s t _ taken ih => exact ih.step taken

end Sys2Proof.Machine

open Sys2Proof Sys2Proof.Machine

/-- Settles O58: a step is idle or a move, and each operation behind a move keeps the invariant. -/
theorem stepKeepsTheInvariant : Obligations.StepKeepsTheInvariant := fun _ _ => State.Inv.step

/-- Settles O57: the default thresholds are legal, and the reset table meets the rest. -/
theorem resetMeetsTheInvariant : Obligations.ResetMeetsTheInvariant :=
  ⟨by unfold Config.Legal; decide, Regs.reset_inv⟩

/-- Settles O59: the six invariants are part of the one that every reachable state meets. -/
theorem reachableStatesMeetTheInvariants : Obligations.ReachableStatesMeetTheInvariants := by
  intro s h
  obtain ⟨-, invariants, -⟩ := h.inv
  exact invariants

end

section
/-! SUPPORT. Moves and runs: every instruction, word and step answers; a presented word runs what it decodes to; what
a read shows and when; the moves from DONE and in BUSY; with the statements that follow. -/

namespace Sys2Proof.Machine

/-- Every instruction has a next state in every state (R106). -/
theorem exec_answers (i : Instr) (s : State) : ∃ t, exec i s = .next t := by
  cases i <;> exact ⟨_, rfl⟩

/-! Presenting a port word. -/

/-- A port word that decodes runs its instruction (R61, R64). -/
theorem runMove_portMove {pw : PortWord} {i : Instr} (h : decode pw = .ok i) (s : State) :
    runMove (portMove pw) s = exec i s := by
  cases pw with
  | command w => exact runCommand_of_legal h s
  | readAddr a =>
    cases h
    rfl

/-- A port word that does not decode is a command word, and is refused (R57). -/
theorem runMove_portMove_illegal {pw : PortWord} {k : IllegalWord} (h : decode pw = .error k) (s : State) :
    runMove (portMove pw) s = .next s.refuse := by
  cases pw with
  | command w => exact runCommand_of_illegal h s
  | readAddr a => cases h

theorem step_of_moves {s : State} {mv : HostMove} {rest : List HostMove} (h : s.moves = mv :: rest) :
    step s = runMove mv (s.withMoves rest) := by
  rw [step, h]

/-- An opcode-table word within its port's range is presented as itself (entry 8). -/
theorem tableMove_of_tablePortWord {nbits w : Nat} {pw : PortWord} (h : tablePortWord nbits w = some pw) :
    tableMove nbits w = portMove pw := by
  rw [tablePortWord] at h
  rw [tableMove]
  split_ifs at h ⊢ <;>
    · cases h
      rfl

theorem decodeTableWord_eq_some {nbits w : Nat} {i : Instr} (h : decodeTableWord nbits w = some i) :
    ∃ pw, tablePortWord nbits w = some pw ∧ decode pw = .ok i := by
  rw [decodeTableWord] at h
  split at h
  case h_1 pw hpw =>
    split at h
    case h_1 j hj =>
      cases h
      exact ⟨pw, hpw, hj⟩
    case h_2 => cases h
  case h_2 => cases h

/-! What the read port depends on. -/

/-- The read port shows the state elements and the parameters, nothing of the host (R38). -/
theorem State.readPort_congr {s t : State} (hregs : t.regs = s.regs) (hparams : t.params = s.params) (a : ReadAddr) :
    t.readPort a = s.readPort a := by
  rw [State.readPort, State.readPort, hregs, hparams]

/-- A refusal shows in STATUS only (R110, R100). -/
theorem State.readPort_refuse {a : ReadAddr} (h : a ≠ 0#3) (s : State) : s.refuse.readPort a = s.readPort a := by
  rw [State.readPort, State.readPort, if_neg h, if_neg h]
  rfl

/-! Moves from DONE and in BUSY. -/

/-- In DONE a move that is neither START nor reset leaves the registers or is refused (R68, R74, R110). -/
theorem Regs.afterMove_of_done {r : Regs} {mv : HostMove} (hdone : r.st = .done) (hstart : isStartMove mv = false)
    (hreset : isResetMove mv = false) (p : Params) : r.afterMove p mv = r ∨ r.afterMove p mv = r.refuse := by
  rcases r.afterMove_cases p mv with ⟨hr, -⟩ | ⟨hs, -⟩ | ⟨-, t, d, e⟩ | e | e
  · simp [hr] at hreset
  · simp [hs] at hstart
  · exact .inr (by rw [e, Regs.sample_refused p t d (by simp [hdone])])
  · exact .inl e
  · exact .inr e

/-- From DONE, moves without START and without reset change at most `err`. -/
theorem State.afterMoves_regs_of_done (s : State) (l : List HostMove) (hdone : s.regs.st = .done)
    (hl : ∀ mv ∈ l, isStartMove mv = false ∧ isResetMove mv = false) :
    (s.afterMoves l).regs = s.regs ∨ (s.afterMoves l).regs = s.regs.refuse := by
  induction l generalizing s with
  | nil => exact .inl rfl
  | cons mv l ih =>
    obtain ⟨hstart, hreset⟩ := hl mv List.mem_cons_self
    have tail := fun x hx => hl x (List.mem_cons_of_mem mv hx)
    have later := ih (s.afterMove mv)
    rw [State.afterMoves_cons]
    rcases Regs.afterMove_of_done hdone hstart hreset s.params with e | e <;>
      rw [State.afterMove_regs, e] at later
    · exact later hdone tail
    · exact .inr ((later hdone tail).elim id id)

/-- IDLE is entered by a reset only: START, SAMPLE in BUSY, and every other move end elsewhere or stay. -/
theorem Regs.afterMove_idle {r : Regs} {p : Params} {mv : HostMove} (h : (r.afterMove p mv).st = .idle) :
    isResetMove mv = true ∨ r.st = .idle := by
  rcases r.afterMove_st_cases p mv with ⟨hr, -⟩ | ⟨-, e⟩ | ⟨-, hbusy⟩ | e
  · exact .inl hr
  · simp [e] at h
  · by_cases hstays : (r.afterMove p mv).st = .busy
    · simp [hstays] at h
    · rcases Regs.afterMove_leaves_busy hbusy hstays with hr | ⟨-, hdone⟩
      · exact .inl hr
      · simp [hdone] at h
  · exact .inr (e.symm.trans h)

/-- SAMPLE never writes `model` (R16). -/
theorem Regs.sample_model (r : Regs) (p : Params) (t : Bool) (d : Byte) : (r.sample p t d).model = r.model := by
  by_cases hbusy : r.st = .busy
  · cases ht : timedOut p t d
    · rw [Regs.sample_observed hbusy ht, Regs.observe_model]
    · rw [Regs.sample_timedOut hbusy ht, Regs.endAttempt_model]
  · rw [Regs.sample_refused p t d hbusy, Regs.refuse_model]

/-- SAMPLE looks at its flag only in the timeout test (R76). -/
theorem Regs.sample_congr_timedOut (r : Regs) {p : Params} {t f : Bool} {d : Byte}
    (h : timedOut p t d = timedOut p f d) : r.sample p t d = r.sample p f d := by
  rw [Regs.sample, Regs.sample, h]

/-- A duration over a threshold below 255 is still over it once saturated (R132, entry 12). -/
theorem lt_saturated_iff {n timeout : Nat} (h : timeout < 255) :
    timeout < (BitVec.ofNat 8 (min n 255)).toNat ↔ timeout < n := by
  rw [BitVec.toNat_ofNat]
  omega

end Sys2Proof.Machine

open Sys2Proof Sys2Proof.Machine

/-- Settles O45: each meaning, each command word and each step is a next state. -/
theorem everythingHasASuccessor : Obligations.EverythingHasASuccessor := by
  refine ⟨exec_answers, fun w s => ⟨_, runCommand_eq w s⟩, fun s => ?_⟩
  cases hmoves : s.moves with
  | nil => exact ⟨s, step_nil hmoves⟩
  | cons mv rest => exact ⟨_, step_cons hmoves⟩

/-- Settles O55: `step` makes the move at the head of the list, and the move presents the port word. -/
theorem stepRunsTheDecodedInstruction : Obligations.StepRunsTheDecodedInstruction := by
  refine ⟨fun pw i s rest hmoves hdec => ?_, fun pw k s rest hmoves hdec => ?_, fun s => step_nil⟩
  · exact (step_of_moves hmoves).trans (runMove_portMove hdec _)
  · exact (step_of_moves hmoves).trans (runMove_portMove_illegal hdec _)

/-- Settles O56: a table word that decodes is within its port's range, so it is presented as itself. -/
theorem placedWordRunsNext : Obligations.PlacedWordRunsNext := by
  intro nbits w i s h
  obtain ⟨pw, hpw, hdec⟩ := decodeTableWord_eq_some h
  have placed : (s.withFetchWord nbits w).moves = portMove pw :: s.moves :=
    congrArg (· :: s.moves) (tableMove_of_tablePortWord hpw)
  exact (step_of_moves placed).trans (runMove_portMove hdec s)

/-- Settles O43: `runRead_eq` names the state after a read, and `State.readPort_congr` what it depends on. -/
theorem readsChangeNothing : Obligations.ReadsChangeNothing :=
  ⟨runRead_eq, fun b _ _ hregs hparams => State.readPort_congr hregs hparams b⟩

/-- Settles O44: a run makes its moves in order, a read takes what the state it finds shows, and neither kind of move
touches what the other one writes. -/
theorem readSeesEarlierCommandsOnly : Obligations.ReadSeesEarlierCommandsOnly := by
  intro a w s t rest h
  rw [runCommand_eq] at h
  cases h
  refine ⟨⟨_, run_moves [.read a, .edge false true w] rest s, rfl, rfl⟩,
    ⟨_, run_moves [.edge false true w, .read a] rest s, rfl, ?_⟩⟩
  have shown := State.readPort_congr (s := s.afterMove (.edge false true w))
    (t := (s.withMoves rest).withRegs (s.regs.command s.params w)) rfl rfl a
  exact congrArg (fun v => ⟨a, v⟩ :: s.taken) shown.symm

/-- Settles O12: `Regs.afterMove_of_done` for the moves that are neither START nor reset. -/
theorem doneIsLeftByStartOrResetOnly : Obligations.DoneIsLeftByStartOrResetOnly := by
  refine ⟨fun mv s t hdone hmove => ?_, fun mv s t hmove hidle => ?_⟩ <;> obtain rfl := eq_afterMove_of_runMove hmove
  · rw [State.afterMove_regs]
    cases hreset : isResetMove mv
    · cases hstart : isStartMove mv
      · exact .inr (.inr ⟨rfl, rfl, Regs.afterMove_of_done hdone hstart hreset s.params⟩)
      · obtain ⟨m, e⟩ := Regs.afterMove_of_isStartMove hstart s.regs s.params
        exact .inr (.inl ⟨rfl, by rw [e, Regs.start_st]⟩)
    · exact .inl ⟨rfl, by rw [Regs.afterMove_of_isResetMove hreset]; rfl⟩
  · exact Regs.afterMove_idle hidle

/-- Settles O13: in BUSY a START is refused, and SAMPLE never writes `model`. -/
theorem modelIsFixedDuringAttempt : Obligations.ModelIsFixedDuringAttempt := by
  intro mv s t hbusy hno hmove
  obtain rfl := eq_afterMove_of_runMove hmove
  rw [State.afterMove_regs]
  rcases s.regs.afterMove_cases s.params mv with ⟨hr, -⟩ | ⟨-, m, e⟩ | ⟨-, f, d, e⟩ | e | e
  · simp [hr] at hno
  · rw [e, Regs.start_busy m hbusy, Regs.refuse_model]
  · rw [e, Regs.sample_model]
  · rw [e]
  · rw [e, Regs.refuse_model]

/-- Settles O31: the moves change at most `err`, which STATUS alone shows. -/
theorem resultIsFinalUntilStart : Obligations.ResultIsFinalUntilStart := by
  intro s l hdone hl
  have run := run_moves l [] s
  rw [List.append_nil] at run
  refine ⟨_, run, ?_⟩
  have reads : ∀ (t : State) (a : ReadAddr), t.regs = s.regs ∨ t.regs = s.regs.refuse → t.params = s.params → a ≠ 0 →
      t.readPort a = s.readPort a := by
    rintro t a (e | e) hparams ha
    · exact State.readPort_congr e hparams a
    · exact (State.readPort_congr (s := s.refuse) e hparams a).trans (State.readPort_refuse ha s)
  have changed := s.afterMoves_regs_of_done l hdone hl
  have readings := fun a => reads ((s.afterMoves l).withMoves []) a changed (s.afterMoves_params l)
  rw [State.withMoves_regs]
  rcases changed with e | e <;> rw [e] <;> exact ⟨hdone, rfl, rfl, rfl, rfl, rfl, rfl, readings⟩

/-- Settles O60: below 255 the saturated duration is over the threshold exactly when the measured one is. -/
theorem timeoutFlagIsRedundant : Obligations.TimeoutFlagIsRedundant := by
  intro s wholeUs hlt
  have same : timedOut s.params (decide (s.params.timeoutUs.toNat < wholeUs)) (BitVec.ofNat 8 (min wholeUs 255)) =
      timedOut s.params false (BitVec.ofNat 8 (min wholeUs 255)) := by
    rw [Bool.eq_iff_iff, timedOut_iff, timedOut_iff, lt_saturated_iff hlt, decide_eq_true_eq]
    simp
  rw [samplerReport, samplerReport, exec_sample, exec_sample, Regs.sample_congr_timedOut _ same]

end

section
/-! SUPPORT. One observation before index 79 as one record, by the counter (R77 to R82), and what SAMPLE may change;
with the statements about single observations. -/

namespace Sys2Proof.Machine

/-- Before index 79 an observation only advances (R84). -/
theorem Regs.observe_before_last {r : Regs} (h : r.cnt.toNat ≠ 82) (p : Params) (d : Byte) :
    r.observe p d = r.advance p d :=
  if_neg (mt r.index_eq_last.1 h)

/-- The writes of R80 to R82, by the counter. -/
theorem Regs.advance_eq (r : Regs) (p : Params) (d : Byte) :
    r.advance p d = { r with
      acc := if r.cnt.toNat = 66 then 0 else r.shifted p d
      rh := if r.cnt.toNat = 34 then r.shifted p d else r.rh
      rt := if r.cnt.toNat = 66 then r.shifted p d else r.rt
      cnt := r.cnt + 1 } := by
  simp only [Regs.advance, Regs.index_eq_tempSnap, Regs.index_eq_humSnap]

/-- At a handshake or even index the accumulator is kept (R77, R79). -/
theorem Regs.shifted_of_not_data {r : Regs} (h : ¬(4 ≤ r.cnt.toNat ∧ r.cnt.toNat % 2 = 0)) (p : Params) (d : Byte) :
    r.shifted p d = r.acc := by
  rw [Regs.shifted_eq, if_neg h]

/-- At an odd index from 1 on the accumulator takes the data bit (R77, R78). -/
theorem Regs.shifted_of_data {r : Regs} (h : 4 ≤ r.cnt.toNat ∧ r.cnt.toNat % 2 = 0) (p : Params) (d : Byte) :
    r.shifted p d = shiftIn r.acc (dataBit p d) := by
  rw [Regs.shifted_eq, if_pos h]

/-- At a handshake or even index an observation only advances `cnt` (R79). -/
theorem Regs.observe_of_not_data {r : Regs} (h : ¬(4 ≤ r.cnt.toNat ∧ r.cnt.toNat % 2 = 0)) (p : Params) (d : Byte) :
    r.observe p d = { r with cnt := r.cnt + 1 } := by
  rw [Regs.observe_before_last (by omega), Regs.advance_eq, Regs.shifted_of_not_data h, if_neg (by omega),
    if_neg (by omega), if_neg (by omega)]

/-- At an odd index that is no snapshot's and not the last, an observation shifts in its bit and advances. -/
theorem Regs.observe_of_plain_data {r : Regs} (h : 4 ≤ r.cnt.toNat ∧ r.cnt.toNat % 2 = 0) (hhum : r.cnt.toNat ≠ 34)
    (htemp : r.cnt.toNat ≠ 66) (hlast : r.cnt.toNat ≠ 82) (p : Params) (d : Byte) :
    r.observe p d = { r with acc := shiftIn r.acc (dataBit p d), cnt := r.cnt + 1 } := by
  rw [Regs.observe_before_last hlast, Regs.advance_eq, Regs.shifted_of_data h, if_neg htemp, if_neg hhum, if_neg htemp]

/-- At index 31 an observation takes the humidity snapshot (R80). -/
theorem Regs.observe_humSnap {r : Regs} (h : r.cnt.toNat = 34) (p : Params) (d : Byte) :
    r.observe p d = { r with
      acc := shiftIn r.acc (dataBit p d), rh := shiftIn r.acc (dataBit p d), cnt := r.cnt + 1 } := by
  rw [Regs.observe_before_last (by omega), Regs.advance_eq, Regs.shifted_of_data (by omega), if_neg (by omega),
    if_pos h, if_neg (by omega)]

/-- At index 63 an observation takes the temperature snapshot and clears the accumulator (R81). -/
theorem Regs.observe_tempSnap {r : Regs} (h : r.cnt.toNat = 66) (p : Params) (d : Byte) :
    r.observe p d = { r with acc := 0, rt := shiftIn r.acc (dataBit p d), cnt := r.cnt + 1 } := by
  rw [Regs.observe_before_last (by omega), Regs.advance_eq, Regs.shifted_of_data (by omega), if_pos h,
    if_neg (by omega), if_pos h]

/-- A SAMPLE is refused, or ends the attempt by a timeout, or is an observation (R84). -/
theorem Regs.sample_cases (r : Regs) (p : Params) (t : Bool) (d : Byte) :
    (r.st ≠ .busy ∧ r.sample p t d = r.refuse) ∨
      (r.st = .busy ∧ (t = true ∨ p.timeoutUs.toNat < d.toNat) ∧ r.sample p t d = r.endAttempt .timeout) ∨
      (r.st = .busy ∧ r.sample p t d = r.observe p d) := by
  by_cases hbusy : r.st = .busy
  · cases ht : timedOut p t d
    · exact .inr (.inr ⟨hbusy, Regs.sample_observed hbusy ht⟩)
    · exact .inr (.inl ⟨hbusy, (timedOut_iff p t d).1 ht, Regs.sample_timedOut hbusy ht⟩)
  · exact .inl ⟨hbusy, Regs.sample_refused p t d hbusy⟩

/-! What SAMPLE may change, element by element (R84). -/

theorem Regs.sample_rh_frame {r : Regs} {p : Params} {t : Bool} {d : Byte} (h : (r.sample p t d).rh ≠ r.rh) :
    r.cnt.toNat = 34 := by
  rcases r.sample_cases p t d with ⟨-, e⟩ | ⟨-, -, e⟩ | ⟨-, e⟩ <;> rw [e] at h
  · simp at h
  · simp at h
  · by_contra hne
    simp [Regs.observe_rh, hne] at h

theorem Regs.sample_rt_frame {r : Regs} {p : Params} {t : Bool} {d : Byte} (h : (r.sample p t d).rt ≠ r.rt) :
    r.cnt.toNat = 66 := by
  rcases r.sample_cases p t d with ⟨-, e⟩ | ⟨-, -, e⟩ | ⟨-, e⟩ <;> rw [e] at h
  · simp at h
  · simp at h
  · by_contra hne
    simp [Regs.observe_rt, hne] at h

theorem Regs.sample_acc_frame {r : Regs} {p : Params} {t : Bool} {d : Byte} (h : (r.sample p t d).acc ≠ r.acc) :
    4 ≤ r.cnt.toNat ∧ r.cnt.toNat % 2 = 0 := by
  rcases r.sample_cases p t d with ⟨-, e⟩ | ⟨-, -, e⟩ | ⟨-, e⟩ <;> rw [e] at h
  · simp at h
  · simp at h
  · by_contra hdata
    simp [Regs.observe_of_not_data hdata] at h

/-- `st` and `res` are written when the attempt ends, by the last observation or by a timeout. -/
theorem Regs.sample_ends_frame {r : Regs} {p : Params} {t : Bool} {d : Byte}
    (h : (r.sample p t d).st ≠ r.st ∨ (r.sample p t d).res ≠ r.res) :
    r.cnt.toNat = 82 ∨ t = true ∨ p.timeoutUs.toNat < d.toNat := by
  rcases r.sample_cases p t d with ⟨-, e⟩ | ⟨-, hlate, e⟩ | ⟨-, e⟩
  · simp [e] at h
  · exact .inr hlate
  · rw [e] at h
    by_contra hne
    simp [Regs.observe_st, Regs.observe_res, (not_or.1 hne).1] at h

/-- In BUSY there is no valid result, so VALID can only rise, and only with the verdict at index 79 (R23, R83). -/
theorem Regs.sample_valid_frame {r : Regs} {p : Params} {t : Bool} {d : Byte} (hinv : r.BusyHasNoResult)
    (h : (r.sample p t d).valid ≠ r.valid) : r.cnt.toNat = 82 ∧ (r.sample p t d).res = .ok := by
  rcases r.sample_cases p t d with ⟨-, e⟩ | ⟨hbusy, -, e⟩ | ⟨hbusy, e⟩ <;> rw [e] at h ⊢
  · exact absurd rfl h
  · simp [Regs.valid, (hinv hbusy).1] at h
  · have rises : (r.observe p d).res = .ok := by simpa [Regs.valid, (hinv hbusy).1] using h
    refine ⟨?_, rises⟩
    by_contra hne
    simp [Regs.observe_res, hne, (hinv hbusy).1] at rises

end Sys2Proof.Machine

open Sys2Proof Sys2Proof.Machine

/-- Settles O16: the counter there is below 4 or odd, where no bit is taken. -/
theorem sampleAtEvenOrHandshakeIndexOnlyAdvances : Obligations.SampleAtEvenOrHandshakeIndexOnlyAdvances := by
  intro d s hbusy honTime hindex
  rw [exec_sample_observed hbusy honTime, Regs.observe_of_not_data (by omega)]
  rfl

/-- Settles O18: the counter is even, from 4 on, and none of the three special ones. -/
theorem sampleAtPlainOddIndex : Obligations.SampleAtPlainOddIndex := by
  intro d s hbusy honTime hpos hodd hhum htemp hlast
  have ne_number : ∀ c : Count, s.regs.cnt ≠ c → s.regs.cnt.toNat ≠ c.toNat := fun c => mt BitVec.eq_of_toNat_eq
  rw [exec_sample_observed hbusy honTime, Regs.observe_of_plain_data (by omega) (ne_number 34 hhum)
    (ne_number 66 htemp) (ne_number 82 hlast), shiftIn_dataBit]
  rfl

/-- Settles O19: `Regs.observe_humSnap`, with the shift-in by numbers. -/
theorem sampleTakesHumiditySnapshot : Obligations.SampleTakesHumiditySnapshot := by
  intro d s hbusy honTime hcnt a
  have hnumber : s.regs.cnt.toNat = 34 := congrArg BitVec.toNat hcnt
  rw [exec_sample_observed hbusy honTime, Regs.observe_humSnap hnumber, shiftIn_dataBit, hcnt]
  rfl

/-- Settles O20: `Regs.observe_tempSnap`, with the shift-in by numbers. -/
theorem sampleTakesTemperatureSnapshot : Obligations.SampleTakesTemperatureSnapshot := by
  intro d s hbusy honTime hcnt a
  have hnumber : s.regs.cnt.toNat = 66 := congrArg BitVec.toNat hcnt
  rw [exec_sample_observed hbusy honTime, Regs.observe_tempSnap hnumber, shiftIn_dataBit, hcnt]
  rfl

/-- Settles O23: SAMPLE writes registers only, and each element by its own frame lemma. -/
theorem sampleFrame : Obligations.SampleFrame := by
  intro f d s t h
  rw [exec_sample] at h
  cases h
  have number : ∀ c : Count, s.regs.cnt.toNat = c.toNat → s.regs.cnt = c := fun c => BitVec.eq_of_toNat_eq
  refine ⟨rfl, rfl, rfl, Regs.sample_model _ _ _ _, fun hbusy => Regs.sample_err_of_busy hbusy _ _ _,
    fun hrh => number 34 (Regs.sample_rh_frame hrh), fun hrt => number 66 (Regs.sample_rt_frame hrt),
    Regs.sample_acc_frame, fun hends => (Regs.sample_ends_frame hends).imp_left (number 82), fun hinv hvalid => ?_⟩
  obtain ⟨-, ⟨-, busy, -⟩, -⟩ := hinv
  obtain ⟨hlast, hok⟩ := Regs.sample_valid_frame busy hvalid
  exact ⟨number 82 hlast, hok⟩

end

section
/-! SUPPORT. A whole attempt: the registers after START and `k` observations in closed form, the payload bytes they
hold, and the durations of `frame` (R42, R63, R87); with the statements about whole attempts. -/

namespace Sys2Proof.Machine

/-! The accumulator as a sequence of shift-ins. -/

/-- The word after `n` shift-ins of the bits `f first`, `f (first + 1)`, … into a clear accumulator. -/
def received (f : Nat → Bool) (first : Nat) : Nat → Word
  | 0 => 0
  | n + 1 => shiftIn (received f first n) (f (first + n))

/-- The bit received last stands at the low end; those of more than sixteen shift-ins ago are lost (R86). -/
theorem received_getLsbD (f : Nat → Bool) (first n : Nat) {j : Nat} (hj : j < 16) :
    (received f first n).getLsbD j = (decide (j < n) && f (first + (n - 1 - j))) := by
  induction n generalizing j with
  | zero => simp [received]
  | succ n ih =>
    rw [received, shiftIn_getLsbD]
    cases j with
    | zero => simp
    | succ j =>
      have position : n - 1 - j = n + 1 - 1 - (j + 1) := by omega
      simp [ih (show j < 16 by omega), position, hj]

theorem received_toNat_lt (f : Nat → Bool) (first n : Nat) : (received f first n).toNat < 2 ^ n := by
  induction n with
  | zero => simp [received]
  | succ n ih =>
    have hbit := (f (first + n)).toNat_lt
    rw [received, shiftIn_toNat, Nat.pow_succ]
    omega

/-! The registers within an attempt. -/

/-- `acc` after `k` observations: the bits so far, or those since its reset at index 63 (R77, R81). -/
def attemptAcc (f : Nat → Bool) (k : Nat) : Word :=
  if k ≤ 66 then received f 0 ((k - 3) / 2) else received f 32 ((k - 67) / 2)

/-- The registers after `k` observations of an attempt whose data bits are `f 0`, `f 1`, …, while it is in BUSY. -/
def attemptRegs (m : SensorModel) (f : Nat → Bool) (k : Nat) : Regs where
  st := .busy
  res := .none
  model := m
  cnt := BitVec.ofNat 7 k
  acc := attemptAcc f k
  rh := if k ≤ 34 then 0 else received f 0 16
  rt := if k ≤ 66 then 0 else received f 0 32
  err := false

/-- The registers after all 83 observations. -/
def completeRegs (m : SensorModel) (f : Nat → Bool) : Regs where
  st := .done
  res := if checksum8 (received f 0 16) (received f 0 32) = lowByte (received f 32 8) then .ok else .checksum
  model := m
  cnt := 83
  acc := received f 32 8
  rh := received f 0 16
  rt := received f 0 32
  err := false

/-- An accepted START is the attempt with no observation yet. -/
theorem beginAttempt_eq_attemptRegs (r : Regs) (m : SensorModel) (f : Nat → Bool) :
    r.beginAttempt m = attemptRegs m f 0 := rfl

theorem attemptRegs_cnt_toNat (m : SensorModel) (f : Nat → Bool) {k : Nat} (h : k ≤ 83) :
    (attemptRegs m f k).cnt.toNat = k :=
  Nat.mod_eq_of_lt (by omega)

theorem attemptRegs_cnt_succ (m : SensorModel) (f : Nat → Bool) (k : Nat) :
    (attemptRegs m f k).cnt + 1 = BitVec.ofNat 7 (k + 1) :=
  (BitVec.ofNat_add k 1).symm

/-- The next data bit goes on the received ones; at index 63 that is the temperature word, before the reset. -/
theorem shiftIn_attemptAcc (f : Nat → Bool) {k : Nat} (h : 4 ≤ k ∧ k % 2 = 0) :
    shiftIn (attemptAcc f k) (f ((k - 4) / 2)) =
      if k ≤ 66 then received f 0 ((k + 1 - 3) / 2) else received f 32 ((k + 1 - 67) / 2) := by
  rw [attemptAcc]
  split
  case isTrue hle =>
    have count : (k + 1 - 3) / 2 = (k - 3) / 2 + 1 := by omega
    have position : (k - 4) / 2 = 0 + (k - 3) / 2 := by omega
    rw [count, position, received]
  case isFalse hgt =>
    have count : (k + 1 - 67) / 2 = (k - 67) / 2 + 1 := by omega
    have position : (k - 4) / 2 = 32 + (k - 67) / 2 := by omega
    rw [count, position, received]

/-- One observation before the last: at an odd index it delivers the next data bit. -/
theorem attemptRegs_observe (m : SensorModel) (f : Nat → Bool) {k : Nat} (hk : k < 82) (p : Params) (d : Byte)
    (hbit : 4 ≤ k ∧ k % 2 = 0 → dataBit p d = f ((k - 4) / 2)) :
    (attemptRegs m f k).observe p d = attemptRegs m f (k + 1) := by
  have hcnt := attemptRegs_cnt_toNat m f (show k ≤ 83 by omega)
  by_cases hdata : 4 ≤ k ∧ k % 2 = 0
  · have shift : shiftIn (attemptRegs m f k).acc (dataBit p d) = _ :=
      (congrArg (shiftIn _) (hbit hdata)).trans (shiftIn_attemptAcc f hdata)
    by_cases hhum : k = 34
    · subst hhum
      rw [Regs.observe_humSnap hcnt, shift]
      rfl
    by_cases htemp : k = 66
    · subst htemp
      rw [Regs.observe_tempSnap hcnt, shift]
      rfl
    have hum_passed : k ≤ 34 ↔ k + 1 ≤ 34 := by omega
    have temp_passed : k ≤ 66 ↔ k + 1 ≤ 66 := by omega
    rw [Regs.observe_of_plain_data (hcnt.symm ▸ hdata) (hcnt.symm ▸ hhum) (hcnt.symm ▸ htemp) (by omega), shift,
      attemptRegs_cnt_succ]
    simp only [attemptRegs, attemptAcc, hum_passed, temp_passed]
  · have hum_passed : k ≤ 34 ↔ k + 1 ≤ 34 := by omega
    have temp_passed : k ≤ 66 ↔ k + 1 ≤ 66 := by omega
    have count : (k - 3) / 2 = (k + 1 - 3) / 2 := by omega
    have count' : k ≤ 66 ∨ (k - 67) / 2 = (k + 1 - 67) / 2 := by omega
    rw [Regs.observe_of_not_data (hcnt.symm ▸ hdata), attemptRegs_cnt_succ]
    have acc_kept : attemptAcc f k = attemptAcc f (k + 1) := by
      rw [attemptAcc, attemptAcc, count, if_congr temp_passed rfl rfl]
      split
      · rfl
      · rw [count'.resolve_left (by omega)]
    simp only [attemptRegs, acc_kept, hum_passed, temp_passed]

/-- The last observation ends the attempt with the verdict. -/
theorem attemptRegs_observe_last (m : SensorModel) (f : Nat → Bool) (p : Params) (d : Byte)
    (hbit : dataBit p d = f 39) : (attemptRegs m f 82).observe p d = completeRegs m f := by
  rw [Regs.observe_last p d rfl, hbit]
  rfl

/-- Data bit `q` of a list of durations: the one of index `2 q + 1` (R87). -/
def payloadBit (p : Params) (ds : List Byte) (q : Nat) : Bool := bitAtIndex p ds (2 * q + 1)

/-- The data bit that the observation after `k` others delivers. -/
theorem dataBit_eq_payloadBit (p : Params) {ds : List Byte} {k : Nat} (hk : k < ds.length)
    (hdata : 4 ≤ k ∧ k % 2 = 0) : dataBit p ds[k] = payloadBit p ds ((k - 4) / 2) := by
  have position : 2 * ((k - 4) / 2) + 1 + Config.nHandshake = k := by rw [Config.nHandshake]; omega
  rw [payloadBit, bitAtIndex, position, List.getD_eq_getElem _ _ hk]

/-- The registers after the first `k` observations of an attempt, before the last. -/
theorem observes_take (r : Regs) (m : SensorModel) (p : Params) (ds : List Byte) {k : Nat} (hk : k ≤ 82)
    (hlen : k ≤ ds.length) : (r.beginAttempt m).observes p (ds.take k) = attemptRegs m (payloadBit p ds) k := by
  induction k with
  | zero => exact beginAttempt_eq_attemptRegs r m _
  | succ k ih =>
    rw [List.take_succ_eq_append_getElem (by omega), Regs.observes_append, ih (by omega) (by omega), Regs.observes_cons,
      Regs.observes_nil]
    exact attemptRegs_observe m _ (by omega) p _ (dataBit_eq_payloadBit p (by omega))

/-- The registers after at most 82 observations. -/
theorem observes_attempt (r : Regs) (m : SensorModel) (p : Params) {ds : List Byte} (hlen : ds.length ≤ 82) :
    (r.beginAttempt m).observes p ds = attemptRegs m (payloadBit p ds) ds.length := by
  have h := observes_take r m p ds hlen le_rfl
  rwa [List.take_length] at h

/-- The registers after all 83 observations. -/
theorem observes_complete (r : Regs) (m : SensorModel) (p : Params) {ds : List Byte} (hlen : ds.length = 83) :
    (r.beginAttempt m).observes p ds = completeRegs m (payloadBit p ds) := by
  have split_last : ds = ds.take 82 ++ [ds[82]] := by
    rw [← List.take_succ_eq_append_getElem, List.take_of_length_le (by omega)]
  rw [split_last, Regs.observes_append, ← split_last, observes_take r m p ds le_rfl (by omega), Regs.observes_cons,
    Regs.observes_nil]
  exact attemptRegs_observe_last m _ p _ (dataBit_eq_payloadBit p (by omega) (by decide))

/-! Runs that are attempts. -/

/-- START outside BUSY and observations that are not timed out. -/
theorem State.afterMoves_attempt {s : State} (m : SensorModel) {ds : List Byte} (hst : s.regs.st ≠ .busy)
    (hlen : ds.length ≤ 83) (ht : OnTime s.params ds) :
    s.afterMoves (startMove m :: sampleMoves ds) = s.withRegs ((s.regs.beginAttempt m).observes s.params ds) := by
  have begun : s.afterMove (startMove m) = s.withRegs (s.regs.beginAttempt m) := by
    rw [State.afterMove_start, Regs.start_accepted m hst]
  have zero : (s.regs.beginAttempt m).cnt.toNat = 0 := rfl
  rw [State.afterMoves_cons, begun]
  exact State.afterMoves_samples (s.withRegs (s.regs.beginAttempt m)) ds rfl ht
    (by rw [State.withRegs_regs, zero]; omega)

/-- The run of a complete attempt. -/
theorem run_attempt {s : State} (m : SensorModel) {ds : List Byte} (rest : List HostMove) (hst : s.regs.st ≠ .busy)
    (hlen : ds.length = 83) (ht : OnTime s.params ds) :
    Host.Core.run Sys2Proof.core 84 (s.withMoves (startMove m :: sampleMoves ds ++ rest)) =
      .next ((s.withRegs (completeRegs m (payloadBit s.params ds))).withMoves rest) := by
  have run := run_moves (startMove m :: sampleMoves ds) rest s
  have steps : (startMove m :: sampleMoves ds).length = 84 := by simp [sampleMoves, hlen]
  rwa [steps, State.afterMoves_attempt m hst hlen.le ht, observes_complete _ _ _ hlen] at run

/-! The payload as bits and as bytes. -/

/-- A received bit by its index on the wire. -/
theorem received_payloadBit (p : Params) (ds : List Byte) {first n j i : Nat} (hj : j < 16) (hjn : j < n)
    (hi : i = 2 * (first + (n - 1 - j)) + 1) :
    (received (payloadBit p ds) first n).getLsbD j = bitAtIndex p ds i := by
  rw [received_getLsbD _ _ _ hj, decide_eq_true hjn, Bool.true_and, hi]
  rfl

/-- The bits of a byte on the wire, the most significant first (R42). -/
theorem byteFromIndex_getLsbD (p : Params) (ds : List Byte) (first : Nat) {j : Nat} (hj : j < 8) :
    (byteFromIndex p ds first).getLsbD j = bitAtIndex p ds (first + 2 * (7 - j)) := by
  interval_cases j <;> simp only [byteFromIndex, BitVec.getLsbD_append] <;> simp

/-- Word `c` of the payload, the humidity or the temperature, is two bytes of the wire, the high one first (R43). -/
theorem received_word (p : Params) (ds : List Byte) (c : Nat) :
    received (payloadBit p ds) 0 (16 * (c + 1)) = wireByte p ds (2 * c) ++ wireByte p ds (2 * c + 1) := by
  apply BitVec.eq_of_getLsbD_eq
  intro j hj
  rw [BitVec.getLsbD_append]
  by_cases hlow : j < 8
  · rw [if_pos hlow, wireByte, byteFromIndex_getLsbD p ds _ hlow]
    exact received_payloadBit p ds hj (by omega) (by omega)
  · rw [if_neg hlow, wireByte, byteFromIndex_getLsbD p ds _ (by omega)]
    exact received_payloadBit p ds hj (by omega) (by omega)

/-- The checksum byte is the last of the wire (R43). -/
theorem received_checksum (p : Params) (ds : List Byte) :
    received (payloadBit p ds) 32 8 = BitVec.setWidth 16 (wireByte p ds 4) := by
  apply BitVec.eq_of_getLsbD_eq
  intro j hj
  rw [BitVec.getLsbD_setWidth, decide_eq_true hj, Bool.true_and]
  by_cases hlow : j < 8
  · rw [wireByte, byteFromIndex_getLsbD p ds _ hlow]
    exact received_payloadBit p ds hj hlow (by omega)
  · rw [received_getLsbD _ _ _ hj, decide_eq_false hlow, Bool.false_and, BitVec.getLsbD_of_ge _ _ (by omega)]

/-- The byte sum of two words is the sum of their bytes, in a byte (R92). -/
theorem checksum8_append (a b c d : Byte) : checksum8 (a ++ b) (c ++ d) = a + b + c + d := by
  have high : ∀ x y : Byte, highByte (x ++ y) = x := fun x y => BitVec.extractLsb'_append_eq_left
  have low : ∀ x y : Byte, lowByte (x ++ y) = y := fun x y => BitVec.extractLsb'_append_eq_right
  rw [checksum8, high, high, low, low]
  bv_omega

theorem lowByte_setWidth (c : Byte) : lowByte (BitVec.setWidth 16 c) = c := by
  apply BitVec.eq_of_toNat_eq
  rw [lowByte_toNat, BitVec.toNat_setWidth_of_le (by decide)]
  exact Nat.mod_eq_of_lt c.isLt

/-- The registers of a complete attempt by the bytes of its payload. -/
theorem completeRegs_payload (m : SensorModel) (p : Params) (ds : List Byte) :
    completeRegs m (payloadBit p ds) =
      { st := .done
        res := if wireByte p ds 0 + wireByte p ds 1 + wireByte p ds 2 + wireByte p ds 3 = wireByte p ds 4 then .ok
          else .checksum
        model := m
        cnt := 83
        acc := BitVec.setWidth 16 (wireByte p ds 4)
        rh := wireByte p ds 0 ++ wireByte p ds 1
        rt := wireByte p ds 2 ++ wireByte p ds 3
        err := false } := by
  have rh_eq : received (payloadBit p ds) 0 16 = wireByte p ds 0 ++ wireByte p ds 1 := received_word p ds 0
  have rt_eq : received (payloadBit p ds) 0 32 = wireByte p ds 2 ++ wireByte p ds 3 := received_word p ds 1
  rw [completeRegs, rh_eq, rt_eq, received_checksum, checksum8_append, lowByte_setWidth]

theorem completeRegs_res (m : SensorModel) (p : Params) (ds : List Byte) :
    (completeRegs m (payloadBit p ds)).res =
      if wireByte p ds 0 + wireByte p ds 1 + wireByte p ds 2 + wireByte p ds 3 = wireByte p ds 4 then .ok
      else .checksum := by
  rw [completeRegs_payload]

/-- Payloads whose byte sums both match, and that agree but for one byte, agree in that one too. -/
theorem single_byte_determined {b c : Nat → Byte} (hb : b 0 + b 1 + b 2 + b 3 = b 4) (hc : c 0 + c 1 + c 2 + c 3 = c 4)
    {k : Nat} (hk : k < 5) (same : ∀ j < 5, j ≠ k → c j = b j) : c k = b k := by
  have other : ∀ j, j < 5 ∧ j ≠ k → c j = b j := fun j h => same j h.1 h.2
  interval_cases k
  · linear_combination hc - hb - other 1 (by decide) - other 2 (by decide) - other 3 (by decide) + other 4 (by decide)
  · linear_combination hc - hb - other 0 (by decide) - other 2 (by decide) - other 3 (by decide) + other 4 (by decide)
  · linear_combination hc - hb - other 0 (by decide) - other 1 (by decide) - other 3 (by decide) + other 4 (by decide)
  · linear_combination hc - hb - other 0 (by decide) - other 1 (by decide) - other 2 (by decide) + other 4 (by decide)
  · linear_combination hb - hc + other 0 (by decide) + other 1 (by decide) + other 2 (by decide) + other 3 (by decide)

/-! The durations of `frame H, T, C` (R63). -/

/-- `bit0` or `bit1`: the low phase and the high phase. -/
def bitDurations (b : Bool) : List Byte := [50, if b then 70 else 26]

/-- `byte V`. -/
def byteDurations (v : Byte) : List Byte :=
  bitDurations (v.getLsbD 7) ++ bitDurations (v.getLsbD 6) ++ bitDurations (v.getLsbD 5) ++
    bitDurations (v.getLsbD 4) ++ bitDurations (v.getLsbD 3) ++ bitDurations (v.getLsbD 2) ++
    bitDurations (v.getLsbD 1) ++ bitDurations (v.getLsbD 0)

/-- `frame H, T, C`. -/
def frameDurations (h t : Word) (c : Byte) : List Byte :=
  [20, 80, 80] ++ byteDurations (highByte h) ++ byteDurations (lowByte h) ++ byteDurations (highByte t) ++
    byteDurations (lowByte t) ++ byteDurations c

theorem presented_byteWords (v : Byte) : presented (byteWords v) = sampleMoves (byteDurations v) := rfl

theorem presented_append (l k : List PortWord) : presented (l ++ k) = presented l ++ presented k := List.map_append

theorem sampleMoves_append (ds es : List Byte) : sampleMoves (ds ++ es) = sampleMoves ds ++ sampleMoves es :=
  List.map_append

/-- The words of `frame` are SAMPLEs of those durations. -/
theorem presented_frameWords (h t : Word) (c : Byte) :
    presented (frameWords h t c) = sampleMoves (frameDurations h t c) := by
  simp only [frameWords, frameDurations, presented_append, sampleMoves_append, presented_byteWords]
  rfl

theorem byteDurations_length (v : Byte) : (byteDurations v).length = 16 := rfl

theorem frameDurations_length (h t : Word) (c : Byte) : (frameDurations h t c).length = 83 := rfl

/-- No duration of `frame` is over 80 µs. -/
theorem onTime_frameDurations {p : Params} (hp : 80 ≤ p.timeoutUs.toNat) (h t : Word) (c : Byte) :
    OnTime p (frameDurations h t c) := by
  have of_bit : ∀ b, ∀ d ∈ bitDurations b, d.toNat ≤ 80 := by decide
  have of_byte : ∀ v, ∀ d ∈ byteDurations v, d.toNat ≤ 80 := by
    intro v d hd
    simp only [byteDurations, List.mem_append, or_assoc] at hd
    rcases hd with hd | hd | hd | hd | hd | hd | hd | hd <;> exact of_bit _ d hd
  intro d hd
  refine le_trans ?_ hp
  simp only [frameDurations, List.mem_append, or_assoc] at hd
  rcases hd with hd | hd | hd | hd | hd | hd
  · revert d
    decide
  all_goals exact of_byte _ d hd

/-- The nominal durations are read as they are meant. -/
theorem dataBit_nominal {p : Params} (hlo : 26 ≤ p.bitThresholdUs.toNat) (hhi : p.bitThresholdUs.toNat < 70)
    (b : Bool) : dataBit p (if b then 70 else 26) = b := by
  cases b <;> simp [dataBit, BitVec.ult] <;> omega

/-- A byte sent after `k` bytes and the handshake is byte `k` of the payload. -/
theorem wireByte_of_block {p : Params} (hlo : 26 ≤ p.bitThresholdUs.toNat) (hhi : p.bitThresholdUs.toNat < 70)
    {before : List Byte} {k : Nat} (hlen : before.length = 16 * k + 3) (v : Byte) (after : List Byte) :
    wireByte p (before ++ byteDurations v ++ after) k = v := by
  have bit : ∀ j < 8,
      bitAtIndex p (before ++ byteDurations v ++ after) (16 * k + 1 + 2 * (7 - j)) = v.getLsbD j := by
    intro j hj
    have position : 16 * k + 1 + 2 * (7 - j) + Config.nHandshake = before.length + (2 * (7 - j) + 1) := by
      rw [hlen, Config.nHandshake]; omega
    rw [bitAtIndex, position, List.append_assoc, List.getD_append_right _ _ _ _ (by omega), Nat.add_sub_cancel_left,
      List.getD_append _ _ _ _ (by rw [byteDurations_length]; omega)]
    interval_cases j <;> exact dataBit_nominal hlo hhi _
  apply BitVec.eq_of_getLsbD_eq
  intro j hj
  rw [wireByte, byteFromIndex_getLsbD _ _ _ hj, bit j hj]

/-- The five bytes of `frame` on the wire. -/
theorem wireByte_frameDurations {p : Params} (hlo : 26 ≤ p.bitThresholdUs.toNat) (hhi : p.bitThresholdUs.toNat < 70)
    (h t : Word) (c : Byte) :
    wireByte p (frameDurations h t c) 0 = highByte h ∧ wireByte p (frameDurations h t c) 1 = lowByte h ∧
      wireByte p (frameDurations h t c) 2 = highByte t ∧ wireByte p (frameDurations h t c) 3 = lowByte t ∧
      wireByte p (frameDurations h t c) 4 = c := by
  have block : ∀ (before : List Byte) (k : Nat) (v : Byte) (after : List Byte), before.length = 16 * k + 3 →
      frameDurations h t c = before ++ byteDurations v ++ after → wireByte p (frameDurations h t c) k = v := by
    intro before k v after hlen e
    rw [e, wireByte_of_block hlo hhi hlen]
  have frame_eq : frameDurations h t c = [20, 80, 80] ++ byteDurations (highByte h) ++ byteDurations (lowByte h) ++
    byteDurations (highByte t) ++ byteDurations (lowByte t) ++ byteDurations c := rfl
  refine ⟨block [20, 80, 80] 0 _
      (byteDurations (lowByte h) ++ byteDurations (highByte t) ++ byteDurations (lowByte t) ++ byteDurations c) rfl ?_,
    block ([20, 80, 80] ++ byteDurations (highByte h)) 1 _
      (byteDurations (highByte t) ++ byteDurations (lowByte t) ++ byteDurations c) rfl ?_,
    block ([20, 80, 80] ++ byteDurations (highByte h) ++ byteDurations (lowByte h)) 2 _
      (byteDurations (lowByte t) ++ byteDurations c) rfl ?_,
    block ([20, 80, 80] ++ byteDurations (highByte h) ++ byteDurations (lowByte h) ++ byteDurations (highByte t)) 3 _
      (byteDurations c) rfl rfl,
    block _ 4 _ [] rfl (List.append_nil _).symm⟩ <;>
  simp only [frame_eq, List.append_assoc]

/-! Durations that carry no bit. -/

/-- Two durations that agree where a bit is taken make the same observation (R79). -/
theorem Regs.observe_congr {r : Regs} (p : Params) {d e : Byte}
    (h : 4 ≤ r.cnt.toNat → r.cnt.toNat % 2 = 0 → d = e) : r.observe p d = r.observe p e := by
  by_cases hdata : 4 ≤ r.cnt.toNat ∧ r.cnt.toNat % 2 = 0
  · rw [h hdata.1 hdata.2]
  · rw [Regs.observe_of_not_data hdata, Regs.observe_of_not_data hdata]

/-- The same for lists of durations that fit the attempt. -/
theorem Regs.observes_congr (p : Params) {ds es : List Byte} (hlen : ds.length = es.length) {r : Regs}
    (hfit : r.cnt.toNat + ds.length ≤ 83)
    (h : ∀ j, 4 ≤ r.cnt.toNat + j → (r.cnt.toNat + j) % 2 = 0 → ds.getD j 0 = es.getD j 0) :
    r.observes p ds = r.observes p es := by
  induction ds generalizing es r with
  | nil => rw [List.eq_nil_of_length_eq_zero hlen.symm]
  | cons d ds ih =>
    obtain ⟨e, es, rfl⟩ := List.exists_cons_of_length_eq_add_one hlen.symm
    simp only [List.length_cons] at hlen hfit
    have first : r.observe p d = r.observe p e := Regs.observe_congr p (h 0)
    have hcnt := Regs.observe_cnt_toNat (r := r) (by omega) p e
    rw [Regs.observes_cons, Regs.observes_cons, first]
    refine ih (by omega) (by omega) fun j hge heven => ?_
    rw [hcnt, Nat.add_right_comm] at hge heven
    exact h (j + 1) hge heven

end Sys2Proof.Machine

open Sys2Proof Sys2Proof.Machine

/-- Settles O24: the closed form of the registers after 83 observations, read bit by bit. -/
theorem attemptAssemblesPayload : Obligations.AttemptAssemblesPayload := by
  intro s m ds rest hst hlen ht
  refine ⟨_, run_attempt m rest hst hlen ht, rfl, rfl, rfl, rfl, rfl, rfl, rfl, fun i hodd hi => ?_,
    fun i hodd hlo hi => ?_, fun i hodd hlo hi => ?_, received_toNat_lt _ 32 8, rfl⟩
  · exact received_payloadBit s.params ds (first := 0) (n := 16) (by omega) (by omega) (by omega)
  · exact received_payloadBit s.params ds (first := 0) (n := 32) (by omega) (by omega) (by omega)
  · exact received_payloadBit s.params ds (first := 32) (n := 8) (by omega) (by omega) (by omega)

/-- Settles O25: the words of `frame` are observations that are not timed out and carry the five bytes it names. -/
theorem frameDeliversItsPayload : Obligations.FrameDeliversItsPayload := by
  intro s m h t c rest hst htimeout hlo hhi
  obtain ⟨byte0, byte1, byte2, byte3, byte4⟩ := wireByte_frameDurations hlo hhi h t c
  have run := run_attempt m rest hst (frameDurations_length h t c) (onTime_frameDurations htimeout h t c)
  rw [← presented_frameWords, completeRegs_payload, byte0, byte1, byte2, byte3, byte4, ← checksum8_append,
    highByte_append_lowByte, highByte_append_lowByte] at run
  refine ⟨_, run, rfl, rfl, rfl, rfl, rfl, rfl, rfl, rfl, rfl, ?_, ?_⟩
  · rw [State.readPort_humDeci, Regs.humDeci]
    by_cases hok : checksum8 h t = c <;> simp [hok, Regs.valid]
  · rw [State.readPort_tempDeci, Regs.tempDeci]
    by_cases hok : checksum8 h t = c <;> simp [hok, Regs.valid]

/-- Settles O26: if the second attempt ended OK too, both byte sums would match and the odd byte be the same. -/
theorem singleByteCorruptionIsCaught : Obligations.SingleByteCorruptionIsCaught := by
  intro s t s' m ds es k hst hds hes tds tes hk same differs hrun hok hrun'
  have run := run_attempt m [] hst hds tds
  have run' := run_attempt m [] hst hes tes
  rw [List.append_nil] at run run'
  cases run.symm.trans hrun
  cases run'.symm.trans hrun'
  rw [State.withMoves_regs, State.withRegs_regs, completeRegs_res] at hok ⊢
  split at hok
  case isTrue sum => exact if_neg fun sum' => differs (single_byte_determined sum sum' hk same)
  case isFalse => cases hok

/-- Settles O27: after `k` observations the snapshots not reached are 0, and the timeout keeps them. -/
theorem timeoutAtEveryPosition : Obligations.TimeoutAtEveryPosition := by
  intro s m ds f d rest hst hlen ht hlate
  have run := run_moves (startMove m :: sampleMoves ds ++ [sampleMove f d]) rest s
  have steps : (startMove m :: sampleMoves ds ++ [sampleMove f d]).length = ds.length + 2 := by simp [sampleMoves]
  have before : s.afterMoves (startMove m :: sampleMoves ds) =
      s.withRegs (attemptRegs m (payloadBit s.params ds) ds.length) := by
    rw [State.afterMoves_attempt m hst (by omega) ht, observes_attempt _ _ _ hlen]
  have late : (attemptRegs m (payloadBit s.params ds) ds.length).sample s.params f d = _ :=
    Regs.sample_timedOut rfl ((timedOut_iff _ _ _).2 hlate)
  rw [steps, List.append_assoc, List.singleton_append, State.afterMoves_append, before, State.afterMoves_cons,
    State.afterMoves_nil, State.afterMove_sample, State.withRegs_regs, State.withRegs_params, late] at run
  exact ⟨_, run, rfl, rfl, rfl, attemptRegs_cnt_toNat m (payloadBit s.params ds) (by omega), rfl, rfl,
    fun hle => if_pos hle, fun hle => if_pos hle, State.readPort_humDeci_of_not_valid rfl,
    State.readPort_tempDeci_of_not_valid rfl⟩

/-- Settles O28: the two lists are the same observations wherever a bit is taken. -/
theorem otherDurationsDoNotMatter : Obligations.OtherDurationsDoNotMatter := by
  intro s ds es rest hlen tds tes hbusy same hfit
  have run := run_moves (sampleMoves ds) rest s
  have run' := run_moves (sampleMoves es) rest s
  have steps : ∀ l : List Byte, (sampleMoves l).length = l.length := fun _ => List.length_map _
  rw [steps, State.afterMoves_samples s ds hbusy tds hfit] at run
  rw [steps, State.afterMoves_samples s es hbusy tes (hlen ▸ hfit), ← hlen] at run'
  rw [run, run', Regs.observes_congr s.params hlen hfit same]

end

section
/-! SUPPORT. The counter and the end of an attempt along any moves of the host, and the view of a host that keeps its
duties (R125, R129, R131, R133); with the statements about runs of a host. -/

namespace Sys2Proof.Machine

/-- A SAMPLE that leaves the attempt in BUSY was counted (R76, R82). -/
theorem Regs.sample_cnt_of_stays_busy {r : Regs} {p : Params} {t : Bool} {d : Byte} (hbusy : r.st = .busy)
    (hcnt : r.cnt.toNat ≤ 82) (hstays : (r.sample p t d).st = .busy) :
    (r.sample p t d).cnt.toNat = r.cnt.toNat + 1 := by
  rcases r.sample_cases p t d with ⟨hnot, e⟩ | ⟨-, -, e⟩ | ⟨-, e⟩ <;> rw [e] at hstays ⊢
  · exact absurd hbusy hnot
  · simp at hstays
  · exact Regs.observe_cnt_toNat hcnt p d

/-- A move that stays in BUSY advances the counter by its SAMPLE, if it is one, and otherwise keeps it. -/
theorem Regs.afterMove_cnt_of_stays_busy {r : Regs} {p : Params} {mv : HostMove} (hbusy : r.st = .busy)
    (hcnt : r.cnt.toNat ≤ 82) (hstays : (r.afterMove p mv).st = .busy) :
    r.cnt.toNat + (if isSampleMove mv then 1 else 0) ≤ (r.afterMove p mv).cnt.toNat := by
  cases hsample : isSampleMove mv
  · rcases r.afterMove_cases p mv with ⟨-, e⟩ | ⟨-, m, e⟩ | ⟨hs, -⟩ | e | e
    · simp [e, Regs.reset] at hstays
    · simp [e, Regs.start_busy m hbusy]
    · simp [hs] at hsample
    · simp [e]
    · simp [e]
  · obtain ⟨t, d, e⟩ := Regs.afterMove_of_isSampleMove hsample r p
    rw [e] at hstays ⊢
    rw [Regs.sample_cnt_of_stays_busy hbusy hcnt hstays, if_pos rfl]

/-- Within as many SAMPLEs as the attempt lacks, some first part of the moves leaves BUSY (R134). -/
theorem State.exists_afterMoves_not_busy {s : State} {l : List HostMove} (hinv : s.Inv) (hbusy : s.regs.st = .busy)
    (hcount : 83 - s.regs.cnt.toNat ≤ l.countP isSampleMove) :
    ∃ l₁ l₂, l = l₁ ++ l₂ ∧ (s.afterMoves l₁).regs.st ≠ .busy := by
  have hcnt : s.regs.cnt.toNat ≤ 82 := by
    obtain ⟨-, ⟨-, busy, -⟩, -⟩ := hinv
    exact (busy hbusy).2
  induction l generalizing s with
  | nil =>
    rw [List.countP_nil] at hcount
    omega
  | cons mv l ih =>
    by_cases hstays : (s.afterMove mv).regs.st = .busy
    · have hadvance := Regs.afterMove_cnt_of_stays_busy hbusy hcnt hstays
      have hinv' := hinv.afterMove mv
      have hcnt' : (s.afterMove mv).regs.cnt.toNat ≤ 82 := by
        obtain ⟨-, ⟨-, busy, -⟩, -⟩ := hinv'
        exact (busy hstays).2
      rw [List.countP_cons] at hcount
      obtain ⟨l₁, l₂, rfl, hleft⟩ := ih hinv' hstays (by rw [State.afterMove_regs]; omega) hcnt'
      exact ⟨mv :: l₁, l₂, rfl, hleft⟩
    · exact ⟨[mv], l, rfl, hstays⟩

/-! A host that keeps its duties. -/

/-- What a host in a phase knows of the registers: nothing before the first reset, and then that no command of it was
refused and which attempt is in flight. -/
def HostPhase.Matches (r : Regs) : HostPhase → Prop
  | .powerUp => True
  | .ready => r.err = false ∧ r.st ≠ .busy
  | .attempt k => r.err = false ∧ r.st = .busy ∧ r.cnt.toNat = k ∧ k ≤ 82

/-- After an observation in the attempt the validator is where the host takes it to be: still in BUSY with one more
observation, or at the attempt's end (R131, R133). -/
theorem HostPhase.Matches.sample {r : Regs} {k : Nat} (h : (HostPhase.attempt k).Matches r) (p : Params) (t : Bool)
    (d : Byte) : (observedPhase p k t d).Matches (r.sample p t d) := by
  obtain ⟨herr, hbusy, hcnt, hle⟩ := h
  rw [observedPhase]
  cases ht : timedOut p t d
  · have herr' : (r.observe p d).err = false := (r.observe_err p d).trans herr
    have hcnt' := Regs.observe_cnt_toNat (hcnt.symm ▸ hle) p d
    have hst := r.observe_st p d
    rw [Regs.sample_observed hbusy ht, if_neg Bool.false_ne_true]
    by_cases hlast : k + 1 = Config.nObs
    · rw [if_pos hlast]
      rw [if_pos (by rw [Config.nObs] at hlast; omega)] at hst
      exact ⟨herr', by simp [hst]⟩
    · rw [if_neg hlast]
      rw [Config.nObs] at hlast
      rw [if_neg (by omega)] at hst
      exact ⟨herr', hst.trans hbusy, by omega, by omega⟩
  · rw [Regs.sample_timedOut hbusy ht, if_pos rfl]
    exact ⟨herr, nofun⟩

/-- A command that the duties allow does what the host takes it to do. -/
theorem HostPhase.Matches.command {r : Regs} {ph ph' : HostPhase} {p : Params} {w : Word} (h : ph.Matches r)
    (hduty : commandPhase p w ph = some ph') : ph'.Matches (r.command p w) := by
  rcases r.command_cases p w with ⟨hw, e⟩ | ⟨m, hw, e⟩ | ⟨t, d, hw, e⟩ | ⟨k, hw, e⟩ <;> rw [e] <;> cases ph <;>
    simp only [commandPhase, hw, Option.some.injEq, reduceCtorEq] at hduty <;> subst hduty
  case inl.ready => exact h
  case inl.attempt => exact h
  case inr.inl.ready =>
    obtain ⟨-, hst⟩ := h
    rw [Regs.start_accepted m hst]
    exact ⟨rfl, rfl, rfl, by decide⟩
  case inr.inr.inl.attempt => exact h.sample p t d

/-- A move that the duties allow does what the host takes it to do. -/
theorem HostPhase.Matches.afterMove {r : Regs} {ph ph' : HostPhase} {p : Params} {mv : HostMove} (h : ph.Matches r)
    (hduty : movePhase p ph mv = some ph') : ph'.Matches (r.afterMove p mv) := by
  match mv with
  | .edge true _ _ =>
    cases hduty
    exact ⟨rfl, nofun⟩
  | .edge false true w => exact h.command hduty
  | .edge false false _ =>
    cases hduty
    exact h
  | .read _ =>
    cases hduty
    exact h

/-- The same for a list of moves. -/
theorem HostPhase.Matches.afterMoves {s : State} {ph ph' : HostPhase} {l : List HostMove} (h : ph.Matches s.regs)
    (hduty : dutifulPhase s.params ph l = some ph') : ph'.Matches (s.afterMoves l).regs := by
  induction l generalizing s ph with
  | nil =>
    cases hduty
    exact h
  | cons mv l ih =>
    rw [dutifulPhase] at hduty
    split at hduty
    case h_1 next hnext => exact ih (s := s.afterMove mv) (h.afterMove hnext) hduty
    case h_2 => cases hduty

end Sys2Proof.Machine

open Sys2Proof Sys2Proof.Machine

/-- Settles O29: each SAMPLE that stays in BUSY advances the counter, and BUSY ends at 83. -/
theorem attemptEndsWithinItsSamples : Obligations.AttemptEndsWithinItsSamples := by
  intro s l hinv hbusy hcount
  obtain ⟨l₁, l₂, rfl, hleft⟩ := State.exists_afterMoves_not_busy hinv hbusy hcount
  exact ⟨l₁.length, _, by simp, run_moves l₁ l₂ s, hleft⟩

/-- Settles O30: the host's phase matches the registers at power-up, where it says nothing, and along the moves. -/
theorem dutifulHostIsNeverRefused : Obligations.DutifulHostIsNeverRefused := by
  intro s l ph hduty hph
  have run := run_moves l [] s
  rw [List.append_nil] at run
  have view : ph.Matches (s.afterMoves l).regs := HostPhase.Matches.afterMoves (ph := .powerUp) trivial hduty
  refine ⟨_, run, ?_⟩
  cases ph with
  | powerUp => exact absurd rfl hph
  | ready =>
    obtain ⟨herr, hst⟩ := view
    exact ⟨herr, nofun, fun _ => hst⟩
  | attempt k =>
    obtain ⟨herr, hst, hcnt, hle⟩ := view
    refine ⟨herr, fun k' e => ?_, nofun⟩
    cases e
    exact ⟨hst, hcnt, hle⟩

end

section
/-! SUPPORT. The values behind the read port as numbers: the fields of STATUS, the byte sum, the humidity, the signed
temperature and the thresholds (R92 to R102); with the statements about the registers. -/

namespace Sys2Proof.Machine

/-- Bit 5 of STATUS is VALID (R100): the fields below it end before bit 5, and those above start after it. -/
theorem Regs.statusWord_valid (r : Regs) : r.statusWord.getLsbD 5 = r.valid := by
  have st_ends : r.st.code[5] = false := by cases r.st <;> rfl
  have res_ends : r.res.code[3] = false := by cases r.res <;> rfl
  have model_ends : (modelBit r.model)[1] = false := by cases r.model <;> rfl
  simp [Regs.statusWord, flagBit_getElem, st_ends, res_ends, model_ends]

/-- Bit 15 of STATUS reads 0: the counter is seven bits from bit 8 on (R100). -/
theorem Regs.statusWord_reserved (r : Regs) : r.statusWord.getLsbD 15 = false := by
  obtain ⟨-, -, -, -, hcnt⟩ := r.statusWord_fields
  have hcnt_lt := r.cnt.isLt
  rw [BitVec.getLsbD, Nat.testBit_eq_decide_div_mod_eq, decide_eq_false_iff_not]
  omega

/-- Bit 4 of STATUS is the model (R100). -/
theorem Regs.statusWord_model (r : Regs) : r.statusWord.getLsbD 4 = true ↔ r.model = .modelB := by
  obtain ⟨-, -, hmodel, -, -⟩ := r.statusWord_fields
  rw [BitVec.getLsbD, Nat.testBit_eq_decide_div_mod_eq, ← hmodel, decide_eq_true_eq]
  cases r.model <;> decide

/-- SUM is the byte sum, zero-extended (R92). -/
theorem Regs.sumWord_toNat (r : Regs) : r.sumWord.toNat = (checksum8 r.rh r.rt).toNat :=
  BitVec.toNat_setWidth_of_le (by decide)

/-! Humidity and temperature as numbers (R94 to R97). -/

theorem hum_modelA (rh : Word) : hum .modelA rh = 10 * (rh.toNat / 256) + rh.toNat % 256 := by
  rw [hum, highByte_toNat, lowByte_toNat]

theorem hum_modelA_le (rh : Word) : hum .modelA rh ≤ 2805 := by
  have := rh.isLt
  rw [hum_modelA]
  omega

theorem tmag_modelA (rt : Word) : tmag .modelA rt = 10 * (rt.toNat / 256) + rt.toNat % 128 := by
  rw [tmag, highByte_toNat, BitVec.extractLsb'_toNat]
  rfl

theorem tmag_modelB (rt : Word) : tmag .modelB rt = rt.toNat % 32768 := by
  rw [tmag, BitVec.extractLsb'_toNat]
  rfl

theorem tmag_modelA_le (rt : Word) : tmag .modelA rt ≤ 2677 := by
  have := rt.isLt
  rw [tmag_modelA]
  omega

/-- The temperature, read as two's complement, is the magnitude with the received sign (R10, R95, R97). -/
theorem temp_toInt (m : SensorModel) (rt : Word) :
    (temp m rt).toInt = if tneg m rt then -(tmag m rt : Int) else tmag m rt := by
  have hmag := tmag_lt m rt
  rw [temp]
  split <;> rw [BitVec.toInt_eq_toNat_cond, BitVec.toNat_ofNat] <;> split <;> omega

/-- The gated registers as numbers (R99). -/
theorem Regs.humDeci_toNat (r : Regs) : r.humDeci.toNat = if r.res = .ok then hum r.model r.rh else 0 := by
  simp only [Regs.humDeci, r.valid_iff]
  split
  · exact Nat.mod_eq_of_lt (hum_lt r.model r.rh)
  · rfl

theorem Regs.tempDeci_toInt (r : Regs) :
    r.tempDeci.toInt =
      if r.res = .ok then if tneg r.model r.rt then -(tmag r.model r.rt : Int) else tmag r.model r.rt else 0 := by
  simp only [Regs.tempDeci, r.valid_iff]
  split
  · exact temp_toInt r.model r.rt
  · rfl

/-- A valid TEMP_DECI in the rationals, with the sign as a factor. -/
theorem Regs.tempDeci_rat {r : Regs} (h : r.res = .ok) :
    (r.tempDeci.toInt : Rat) = (if tneg r.model r.rt then -1 else 1) * (tmag r.model r.rt : Rat) := by
  rw [Regs.tempDeci_toInt, if_pos h]
  split <;> simp

/-- TEMP_DECI stays within a bound of the magnitude, on both sides of 0. -/
theorem Regs.tempDeci_bounds {r : Regs} {n : Nat} (h : tmag r.model r.rt ≤ n) :
    -(n : Int) ≤ r.tempDeci.toInt ∧ r.tempDeci.toInt ≤ n := by
  rw [Regs.tempDeci_toInt]
  split
  · split <;> omega
  · omega

/-- The thresholds side by side (R101). -/
theorem paramsWord_toNat (p : Params) : (paramsWord p).toNat = 256 * p.timeoutUs.toNat + p.bitThresholdUs.toNat := by
  rw [paramsWord, BitVec.toNat_append, Nat.shiftLeft_eq, Nat.mul_comm,
    ← Nat.two_pow_add_eq_or_of_lt p.bitThresholdUs.isLt]

end Sys2Proof.Machine

open Sys2Proof Sys2Proof.Machine

/-- Settles O32: the three meanings are those reads. -/
theorem rawRegistersReadUngated : Obligations.RawRegistersReadUngated := fun _ => ⟨rfl, rfl, rfl⟩

/-- Settles O33: the fields do not overlap, so each is read out of its own bits. -/
theorem statusHasItsFields : Obligations.StatusHasItsFields := by
  intro s
  obtain ⟨hst, hres, -, -, -⟩ := s.regs.statusWord_fields
  refine ⟨s.regs.statusWord, rfl, ?_, ?_, s.regs.statusWord_model, ?_, ?_, s.regs.statusWord_cmdErr, ?_,
    s.regs.statusWord_reserved⟩
  · rw [BitVec.extractLsb'_toNat, Nat.shiftRight_zero]
    refine hst.symm.trans ?_
    cases s.regs.st <;> rfl
  · rw [BitVec.extractLsb'_toNat, Nat.shiftRight_eq_div_pow]
    refine hres.symm.trans ?_
    cases s.regs.res <;> rfl
  · rw [Regs.statusWord_valid, Regs.valid_iff]
  · rw [Regs.statusWord_tempNeg, Regs.tempNeg_iff]
    cases s.regs.model <;> rfl
  · exact BitVec.eq_of_toNat_eq s.regs.statusWord_cnt

/-- Settles O34: `checksum8_toNat`, and in a state that meets the invariant a snapshot not taken is 0. -/
theorem sumReadsTheByteSum : Obligations.SumReadsTheByteSum := by
  refine ⟨checksum8_toNat, fun s => ⟨s.regs.sumWord, rfl, s.regs.sumWord_toNat, fun hinv hle => ?_, fun hinv hle => ?_⟩⟩
  all_goals obtain ⟨-, ⟨-, -, -, -, -, rh_zero, rt_zero⟩, -⟩ := hinv
  · rw [Regs.sumWord, rh_zero hle, rt_zero (by omega)]
    rfl
  · rw [Regs.sumWord_toNat, checksum8_toNat, rt_zero hle]
    rfl

/-- Settles O35: HUM_DECI holds the humidity whole, which is below 2^16. -/
theorem humDeciReadsTheHumidity : Obligations.HumDeciReadsTheHumidity :=
  ⟨fun s => ⟨s.regs.humDeci, rfl, s.regs.humDeci_toNat⟩, fun rh => ⟨hum_modelA rh, hum_modelA_le rh⟩, fun _ => rfl⟩

/-- Settles O36: `Regs.tempDeci_toInt`, with the magnitude of either model as a number. -/
theorem tempDeciReadsTheTemperature : Obligations.TempDeciReadsTheTemperature := by
  refine ⟨fun rt => ⟨tmag_modelA rt, tmag_modelA_le rt, tmag_modelB rt, Nat.le_of_lt_succ (tmag_lt _ rt)⟩,
    fun s => ⟨s.regs.tempDeci, rfl, ?_⟩⟩
  rw [Regs.tempDeci_toInt]
  cases s.regs.model
  · rw [tmag_modelA]
    rfl
  · rw [tmag_modelB]
    rfl

/-- Settles O38: PARAMS is a word of the parameters alone, and `parametersNeverChange` says no step changes it. -/
theorem paramsReadsTheThresholds : Obligations.ParamsReadsTheThresholds := by
  obtain ⟨step_keeps, -, -⟩ := parametersNeverChange
  refine ⟨fun s => ⟨paramsWord s.params, rfl, paramsWord_toNat s.params⟩, fun s hp => ?_, fun s t h =>
    (step_keeps s t h).2⟩
  rw [s.readPort_params, hp]
  rfl

/-- Settles O40: the magnitudes are below 2^15, and the sign only reflects them; 0x8000 would be -32768. -/
theorem decodedValuesStayInRange : Obligations.DecodedValuesStayInRange := by
  intro s
  rw [s.readPort_humDeci, s.readPort_tempDeci]
  obtain ⟨lo, hi⟩ := Regs.tempDeci_bounds (r := s.regs) (Nat.le_of_lt_succ (tmag_lt _ _))
  refine ⟨fun h => ?_, lo, hi, fun hmodel => ⟨?_, Regs.tempDeci_bounds ?_⟩⟩
  · rw [h] at lo
    exact absurd lo (by decide)
  · have hhum := hum_modelA_le s.regs.rh
    rw [Regs.humDeci_toNat, hmodel]
    split <;> omega
  · rw [hmodel]
    exact tmag_modelA_le s.regs.rt

/-- Settles O41: the numbers of tenths, divided by ten in the rationals. -/
theorem decodedValuesAreTheSourceFormulas : Obligations.DecodedValuesAreTheSourceFormulas := by
  intro s hok
  have humidity := s.regs.humDeci_toNat
  rw [if_pos hok] at humidity
  rw [s.readPort_humDeci, s.readPort_tempDeci, humidityPercent, temperatureCelsius, humidity, Regs.tempDeci_rat hok]
  cases s.regs.model
  · rw [hum_modelA, tmag_modelA, highByte_toNat, highByte_toNat, lowByte_toNat, lowByte_toNat,
      Nat.mod_mod_of_dvd _ (by decide), tneg]
    push_cast
    exact ⟨by ring, by ring⟩
  · rw [tmag_modelB, hum, tneg]
    exact ⟨by ring, by ring⟩

end

section
/-! SUPPORT. How the assembler reads a line of a name and one operand, and the numbers that the disassembler prints
(R62, R65, entry 11); with the statement about disassembly. -/

namespace Sys2Proof.Machine

/-! A text of one line, without a comment and without capitals. -/

/-- The line is kept whole by the passes before the tokens: it has no line end, no comment and no capital. -/
def keepsLine (c : Char) : Bool := c != '\n' && c != ';' && lowerChar c == c

/-- The character is part of a token. -/
def inToken (c : Char) : Bool := keepsLine c && !isBlank c && c != ','

theorem keepsLine_iff (c : Char) : keepsLine c = true ↔ c ≠ '\n' ∧ c ≠ ';' ∧ lowerChar c = c := by
  simp [keepsLine, and_assoc]

theorem inToken_iff (c : Char) : inToken c = true ↔ keepsLine c = true ∧ isBlank c = false ∧ c ≠ ',' := by
  simp [inToken, and_assoc]

theorem splitLines_of_keepsLine {l : List Char} (h : ∀ c ∈ l, keepsLine c = true) (rev : List Char) :
    splitLines l rev = [rev.reverse ++ l] := by
  induction l generalizing rev with
  | nil => simp [splitLines]
  | cons c l ih =>
    obtain ⟨hc, hl⟩ := List.forall_mem_cons.1 h
    obtain ⟨no_end, -, -⟩ := (keepsLine_iff c).1 hc
    simp [splitLines, no_end, ih hl]

theorem stripComment_of_keepsLine {l : List Char} (h : ∀ c ∈ l, keepsLine c = true) : stripComment l = l := by
  induction l with
  | nil => rfl
  | cons c l ih =>
    obtain ⟨hc, hl⟩ := List.forall_mem_cons.1 h
    obtain ⟨-, no_comment, -⟩ := (keepsLine_iff c).1 hc
    rw [stripComment, if_neg no_comment, ih hl]

theorem map_lowerChar_of_keepsLine {l : List Char} (h : ∀ c ∈ l, keepsLine c = true) : l.map lowerChar = l := by
  have lower : ∀ c ∈ l, lowerChar c = id c := by
    intro c hc
    obtain ⟨-, -, lower⟩ := (keepsLine_iff c).1 (h c hc)
    exact lower
  rw [List.map_congr_left lower, List.map_id]

/-- The characters of a token are collected. -/
theorem tokens_append_of_inToken {k : List Char} (h : ∀ c ∈ k, inToken c = true) (rest rev : List Char) :
    tokens (k ++ rest) rev = tokens rest (k.reverse ++ rev) := by
  induction k generalizing rev with
  | nil => rfl
  | cons c k ih =>
    obtain ⟨hc, hk⟩ := List.forall_mem_cons.1 h
    obtain ⟨-, no_blank, no_comma⟩ := (inToken_iff c).1 hc
    simp [tokens, no_blank, no_comma, ih hk]

theorem flushToken_reverse {k : List Char} (h : k ≠ []) : flushToken k.reverse = [k] := by
  simp [flushToken, h]

/-- A line of a name, a space and an operand has these two tokens. -/
theorem tokens_unary {k x : List Char} (hk : ∀ c ∈ k, inToken c = true) (hx : ∀ c ∈ x, inToken c = true)
    (hk' : k ≠ []) (hx' : x ≠ []) : tokens (k ++ ' ' :: x) [] = [k, x] := by
  have operand : tokens x [] = [x] := by
    have h := tokens_append_of_inToken hx [] []
    rw [List.append_nil, List.append_nil, tokens, flushToken_reverse hx'] at h
    exact h
  have space : isBlank ' ' = true := rfl
  rw [tokens_append_of_inToken hk, List.append_nil, tokens, if_pos space, flushToken_reverse hk', operand]
  rfl

theorem assembleLines_singleton (l : AsmLine) : assembleLines [l] = assembleLine l := by
  rw [assembleLines, assembleLines]
  cases assembleLine l <;> simp

/-- A text of one such line assembles to what its line does. -/
theorem assembleText_unary {k x : List Char} {l : AsmLine} (hk : ∀ c ∈ k, inToken c = true)
    (hx : ∀ c ∈ x, inToken c = true) (hk' : k ≠ []) (hx' : x ≠ []) (h : parseUnary k x = some l) :
    assembleText (k ++ ' ' :: x) = assembleLine l := by
  have line : ∀ c ∈ k ++ ' ' :: x, keepsLine c = true := by
    intro c hc
    rcases List.mem_append.1 hc with hc | hc
    · exact ((inToken_iff c).1 (hk c hc)).1
    rcases List.mem_cons.1 hc with rfl | hc
    · rfl
    · exact ((inToken_iff c).1 (hx c hc)).1
  have parsed : parseLine (k ++ ' ' :: x) = some [l] := by
    rw [parseLine, stripComment_of_keepsLine line, map_lowerChar_of_keepsLine line, tokens_unary hk hx hk' hx']
    simp [parseTokens, h]
  rw [assembleText, splitLines_of_keepsLine line]
  simp [parseLines, parsed, assembleLines_singleton]

/-! The numbers that the disassembler prints. -/

/-- A digit is part of a token, is no `x`, and is read back in either base. -/
theorem digitChar_read : ∀ v < 16, inToken (digitChar v) = true ∧ digitChar v ≠ 'x' ∧
    digitValue 16 (digitChar v) = some v ∧ (v < 10 → digitValue 10 (digitChar v) = some v) := by
  decide

theorem inToken_digitChar {v : Nat} (h : v < 16) : inToken (digitChar v) = true := (digitChar_read v h).1

theorem digitsValue_cons {base v : Nat} {c : Char} (h : digitValue base c = some v) (cs : List Char) (acc : Nat) :
    digitsValue base (c :: cs) acc = digitsValue base cs (base * acc + v) := by
  rw [digitsValue, h]

theorem digitsValue_hexDigit {v : Nat} (h : v < 16) (cs : List Char) (acc : Nat) :
    digitsValue 16 (digitChar v :: cs) acc = digitsValue 16 cs (16 * acc + v) := by
  obtain ⟨-, -, hex, -⟩ := digitChar_read v h
  exact digitsValue_cons hex cs acc

theorem digitsValue_decimalDigit {v : Nat} (h : v < 10) (cs : List Char) (acc : Nat) :
    digitsValue 10 (digitChar v :: cs) acc = digitsValue 10 cs (10 * acc + v) := by
  obtain ⟨-, -, -, decimal⟩ := digitChar_read v (by omega)
  exact digitsValue_cons (decimal h) cs acc

/-- A number without an `x` is decimal (R62). -/
theorem parseNumber_decimal {ds : List Char} (hx : 'x' ∉ ds) (hne : ds ≠ []) :
    parseNumber ds = digitsValue 10 ds 0 := by
  rw [parseNumber.eq_def]
  split
  · simp at hx
  · simp [hne]

/-- D in decimal: its characters, one to three decimal digits. -/
theorem decimalText_digits {d : Nat} (h : d < 1000) : ∀ c ∈ decimalText d, ∃ v < 10, c = digitChar v := by
  rw [decimalText]
  split_ifs <;> simp only [List.forall_mem_cons]
  · exact ⟨⟨d, by omega, rfl⟩, nofun⟩
  · exact ⟨⟨d / 10, by omega, rfl⟩, ⟨d % 10, by omega, rfl⟩, nofun⟩
  · exact ⟨⟨d / 100, by omega, rfl⟩, ⟨d / 10 % 10, by omega, rfl⟩, ⟨d % 10, by omega, rfl⟩, nofun⟩

theorem decimalText_inToken {d : Nat} (h : d < 1000) : ∀ c ∈ decimalText d, inToken c = true := by
  intro c hc
  obtain ⟨v, hv, rfl⟩ := decimalText_digits h c hc
  exact inToken_digitChar (by omega)

theorem decimalText_ne_nil (d : Nat) : decimalText d ≠ [] := by
  rw [decimalText]
  split_ifs <;> exact nofun

/-- D in decimal is read back. -/
theorem parseNumber_decimalText {d : Nat} (h : d < 1000) : parseNumber (decimalText d) = some d := by
  have no_x : 'x' ∉ decimalText d := by
    intro hx
    obtain ⟨v, hv, e⟩ := decimalText_digits h _ hx
    obtain ⟨-, ne_x, -⟩ := digitChar_read v (by omega)
    exact ne_x e.symm
  rw [parseNumber_decimal no_x (decimalText_ne_nil d), decimalText]
  split_ifs
  · rw [digitsValue_decimalDigit (by omega), digitsValue, Option.some.injEq]
    omega
  · rw [digitsValue_decimalDigit (by omega), digitsValue_decimalDigit (by omega), digitsValue, Option.some.injEq]
    omega
  · rw [digitsValue_decimalDigit (by omega), digitsValue_decimalDigit (by omega), digitsValue_decimalDigit (by omega),
      digitsValue, Option.some.injEq]
    omega

theorem hexText_inToken {n : Nat} (h : n < 65536) : ∀ c ∈ hexText n, inToken c = true := by
  simp only [hexText, List.forall_mem_cons]
  exact ⟨rfl, rfl, inToken_digitChar (by omega), inToken_digitChar (by omega), inToken_digitChar (by omega),
    inToken_digitChar (by omega), nofun⟩

/-- W in hexadecimal is read back. -/
theorem parseNumber_hexText {n : Nat} (h : n < 65536) : parseNumber (hexText n) = some n := by
  have digits : parseNumber (hexText n) = digitsValue 16
      [digitChar (n / 4096), digitChar (n / 256 % 16), digitChar (n / 16 % 16), digitChar (n % 16)] 0 := rfl
  rw [digits, digitsValue_hexDigit (by omega), digitsValue_hexDigit (by omega), digitsValue_hexDigit (by omega),
    digitsValue_hexDigit (by omega), digitsValue, Option.some.injEq]
  omega

/-! The disassembler. -/

/-- Assembling a disassembled line gives back its word. -/
theorem assembleLine_disassemble (w : Word) : assembleLine (disassemble w) = some [.command w] := by
  have number : ∀ d : Byte, d.toNat ≤ 255 := fun d => Nat.le_of_lt_succ d.isLt
  rcases decodeCommand_cases w with h | ⟨m, h⟩ | ⟨t, d, h⟩ | ⟨k, h⟩
  · rw [← encode_of_decode (pw := .command w) h, disassemble, h]
    rfl
  · rw [← encode_of_decode (pw := .command w) h, disassemble, h]
    rfl
  · rw [← encode_of_decode (pw := .command w) h, disassemble, h]
    cases t <;> simp [assembleLine, AsmLine.wellFormed, expandLine, number d]
  · have hw : w.toNat ≤ 0xFFFF := Nat.le_of_lt_succ w.isLt
    rw [disassemble, h]
    simp [assembleLine, AsmLine.wellFormed, expandLine, hw]

/-- The text of a disassembled word is read as its line. -/
theorem assembleText_disassembleText (w : Word) : assembleText (disassembleText w) = assembleLine (disassemble w) := by
  rcases decodeCommand_cases w with h | ⟨m, h⟩ | ⟨t, d, h⟩ | ⟨k, h⟩ <;> rw [disassembleText, disassemble, h]
  · rfl
  · cases m <;> rfl
  · have hd : d.toNat < 1000 := lt_trans d.isLt (by decide)
    have token := decimalText_inToken hd
    have nonempty := decimalText_ne_nil d.toNat
    have value := parseNumber_decimalText hd
    cases t
    · exact assembleText_unary (k := ['s', 'a', 'm', 'p', 'l', 'e']) (List.all_eq_true.1 rfl) token nofun nonempty
        (congrArg (Option.map AsmLine.sample) value)
    · exact assembleText_unary (k := ['s', 'a', 'm', 'p', 'l', 'e', '.', 't']) (List.all_eq_true.1 rfl) token nofun
        nonempty (congrArg (Option.map AsmLine.sampleT) value)
  · exact assembleText_unary (k := ['.', 'w', 'o', 'r', 'd']) (List.all_eq_true.1 rfl) (hexText_inToken w.isLt) nofun
      nofun (congrArg (Option.map AsmLine.word) (parseNumber_hexText w.isLt))

end Sys2Proof.Machine

open Sys2Proof Sys2Proof.Machine

/-- Settles O7: the line holds the fields of the word, and the text is read as the line. -/
theorem disassemblyAssemblesBack : Obligations.DisassemblyAssemblesBack :=
  fun w => ⟨assembleLine_disassemble w, (assembleText_disassembleText w).trans (assembleLine_disassemble w)⟩

end
